-- ==== Sys2Proof/Word.lean ====
section
/-! DEFINITION. The word types of the machine (00_scope.md R6, R8, R9). -/

namespace Sys2Proof

/-- A memory cell, a general register, `SP`, a timer: `XLEN`, `SPWIDTH`, `TWIDTH` = 8 (R6). -/
abbrev Byte := BitVec 8

/-- The opcode, `I`, `PC` and a call-stack slot: `ILEN`, `IWIDTH`, `PCWIDTH` = 16 (R6). -/
abbrev Word := BitVec 16

/-- A general register index, 0..15 (R20). -/
abbrev RegIx := Fin 16

/-- The register that doubles as the flag, `V[0xF]` (R21). -/
abbrev VF : RegIx := 15

end Sys2Proof
end

