-- ==== Sys2Proof/Syntax.lean ====
section
/-! DEFINITION. The 34 instructions, one constructor per row of spec/opcode_table.json, in the table's
order (30_encoding.md R87). Operands are the unsigned fields of R81 and R86: `x`, `y` register indices,
`kk` a byte, `nnn` a 12-bit address, `n` a row count (a count, so a natural number; `WellFormed` bounds
it). `SHR` and `SHL` keep the `y` field that R89 says is decoded and ignored. -/

namespace Sys2Proof

inductive Instr where
  /-- `00E0` -/
  | cls
  /-- `00EE` -/
  | ret
  /-- `1NNN` -/
  | jp (nnn : BitVec 12)
  /-- `2NNN` -/
  | call (nnn : BitVec 12)
  /-- `3XKK` -/
  | seVxKk (x : RegIx) (kk : Byte)
  /-- `4XKK` -/
  | sneVxKk (x : RegIx) (kk : Byte)
  /-- `5XY0` -/
  | seVxVy (x y : RegIx)
  /-- `6XKK` -/
  | ldVxKk (x : RegIx) (kk : Byte)
  /-- `7XKK` -/
  | addVxKk (x : RegIx) (kk : Byte)
  /-- `8XY0` -/
  | ldVxVy (x y : RegIx)
  /-- `8XY1` -/
  | orVxVy (x y : RegIx)
  /-- `8XY2` -/
  | andVxVy (x y : RegIx)
  /-- `8XY3` -/
  | xorVxVy (x y : RegIx)
  /-- `8XY4` -/
  | addVxVy (x y : RegIx)
  /-- `8XY5` -/
  | subVxVy (x y : RegIx)
  /-- `8XY6` -/
  | shrVx (x y : RegIx)
  /-- `8XY7` -/
  | subnVxVy (x y : RegIx)
  /-- `8XYE` -/
  | shlVx (x y : RegIx)
  /-- `9XY0` -/
  | sneVxVy (x y : RegIx)
  /-- `ANNN` -/
  | ldI (nnn : BitVec 12)
  /-- `BNNN` -/
  | jpV0 (nnn : BitVec 12)
  /-- `CXKK` -/
  | rnd (x : RegIx) (kk : Byte)
  /-- `DXYN` -/
  | drw (x y : RegIx) (n : Nat)
  /-- `EX9E` -/
  | skp (x : RegIx)
  /-- `EXA1` -/
  | sknp (x : RegIx)
  /-- `FX07` -/
  | ldVxDt (x : RegIx)
  /-- `FX0A` -/
  | ldVxK (x : RegIx)
  /-- `FX15` -/
  | ldDtVx (x : RegIx)
  /-- `FX18` -/
  | ldStVx (x : RegIx)
  /-- `FX1E` -/
  | addIVx (x : RegIx)
  /-- `FX29` -/
  | ldFVx (x : RegIx)
  /-- `FX33` -/
  | ldBVx (x : RegIx)
  /-- `FX55` -/
  | ldMemIVx (x : RegIx)
  /-- `FX65` -/
  | ldVxMemI (x : RegIx)
  deriving DecidableEq, Repr

end Sys2Proof
end

