-- ==== Sys2Proof/Decode.lean ====
section
/-! DEFINITION. From words to instructions and back (30_encoding.md R80 to R91). `decode` is the exact
match of R84; `encode` is written from the same opcode map R87; `opcodeMap` is that map as data. -/

namespace Sys2Proof

/-! ### Fields (R81) -/

/-- `grp = op[15:12]`. -/
def fieldGrp (op : Word) : BitVec 4 := op.extractLsb' 12 4

/-- `x = op[11:8]`. -/
def fieldX (op : Word) : RegIx := ⟨(op.extractLsb' 8 4).toNat, (op.extractLsb' 8 4).isLt⟩

/-- `y = op[7:4]`. -/
def fieldY (op : Word) : RegIx := ⟨(op.extractLsb' 4 4).toNat, (op.extractLsb' 4 4).isLt⟩

/-- `n = op[3:0]`. -/
def fieldN (op : Word) : BitVec 4 := op.extractLsb' 0 4

/-- `kk = op[7:0]`. -/
def fieldKk (op : Word) : Byte := op.extractLsb' 0 8

/-- `nnn = op[11:0]`. -/
def fieldNnn (op : Word) : BitVec 12 := op.extractLsb' 0 12

/-! ### Decode (R84, R87, R94) -/

/-- Secondary dispatch of group 0x0 on the low 12 bits. -/
def decodeGroup0 (op : Word) : Option Instr :=
  match fieldNnn op with
  | 0x0E0#12 => some .cls
  | 0x0EE#12 => some .ret
  | _ => none

/-- Secondary dispatch of group 0x8 on the low nibble. -/
def decodeGroup8 (op : Word) : Option Instr :=
  match fieldN op with
  | 0x0#4 => some (.ldVxVy (fieldX op) (fieldY op))
  | 0x1#4 => some (.orVxVy (fieldX op) (fieldY op))
  | 0x2#4 => some (.andVxVy (fieldX op) (fieldY op))
  | 0x3#4 => some (.xorVxVy (fieldX op) (fieldY op))
  | 0x4#4 => some (.addVxVy (fieldX op) (fieldY op))
  | 0x5#4 => some (.subVxVy (fieldX op) (fieldY op))
  | 0x6#4 => some (.shrVx (fieldX op) (fieldY op))
  | 0x7#4 => some (.subnVxVy (fieldX op) (fieldY op))
  | 0xE#4 => some (.shlVx (fieldX op) (fieldY op))
  | _ => none

/-- Secondary dispatch of group 0xE on the low byte. -/
def decodeGroupE (op : Word) : Option Instr :=
  match fieldKk op with
  | 0x9E#8 => some (.skp (fieldX op))
  | 0xA1#8 => some (.sknp (fieldX op))
  | _ => none

/-- Secondary dispatch of group 0xF on the low byte. -/
def decodeGroupF (op : Word) : Option Instr :=
  match fieldKk op with
  | 0x07#8 => some (.ldVxDt (fieldX op))
  | 0x0A#8 => some (.ldVxK (fieldX op))
  | 0x15#8 => some (.ldDtVx (fieldX op))
  | 0x18#8 => some (.ldStVx (fieldX op))
  | 0x1E#8 => some (.addIVx (fieldX op))
  | 0x29#8 => some (.ldFVx (fieldX op))
  | 0x33#8 => some (.ldBVx (fieldX op))
  | 0x55#8 => some (.ldMemIVx (fieldX op))
  | 0x65#8 => some (.ldVxMemI (fieldX op))
  | _ => none

/-- The instruction a word is, or `none` where R88 says `UnknownOpcode`. DESIGN CHOICE: strict in the
fixed nibbles of groups 0x0, 0x5, 0x9 and 0xE (the spec's D3, C4; log 13). Safe. -/
def decode (op : Word) : Option Instr :=
  match fieldGrp op with
  | 0x0#4 => decodeGroup0 op
  | 0x1#4 => some (.jp (fieldNnn op))
  | 0x2#4 => some (.call (fieldNnn op))
  | 0x3#4 => some (.seVxKk (fieldX op) (fieldKk op))
  | 0x4#4 => some (.sneVxKk (fieldX op) (fieldKk op))
  | 0x5#4 => if fieldN op = 0x0#4 then some (.seVxVy (fieldX op) (fieldY op)) else none
  | 0x6#4 => some (.ldVxKk (fieldX op) (fieldKk op))
  | 0x7#4 => some (.addVxKk (fieldX op) (fieldKk op))
  | 0x8#4 => decodeGroup8 op
  | 0x9#4 => if fieldN op = 0x0#4 then some (.sneVxVy (fieldX op) (fieldY op)) else none
  | 0xA#4 => some (.ldI (fieldNnn op))
  | 0xB#4 => some (.jpV0 (fieldNnn op))
  | 0xC#4 => some (.rnd (fieldX op) (fieldKk op))
  | 0xD#4 => some (.drw (fieldX op) (fieldY op) (fieldN op).toNat)
  | 0xE#4 => decodeGroupE op
  | 0xF#4 => decodeGroupF op
  | _ => none

/-! ### Bytes (R54, R82) -/

/-- `(high_byte << 8) | low_byte`. -/
def joinBytes (hi lo : Byte) : Word := hi ++ lo

/-- `op[15:8]`, the byte at the lower address. -/
def highByte (op : Word) : Byte := op.extractLsb' 8 8

/-- `op[7:0]`, the byte at the higher address. -/
def lowByte (op : Word) : Byte := op.extractLsb' 0 8

/-- Why bytes are no instruction. -/
inductive DecodeError where
  /-- The word matches no row of R87; carries the offending value (R84, R88). -/
  | unknownOpcode (op : Word)
  /-- Fewer than two bytes: an instruction is two bytes (R80). -/
  | truncated
  deriving DecidableEq, Repr

/-- The first instruction of a byte sequence, lowest address first, with the bytes after it. -/
def decodeBytes : List Byte → Except DecodeError (Instr × List Byte)
  | hi :: lo :: rest =>
    match decode (joinBytes hi lo) with
    | some i => .ok (i, rest)
    | none => .error (.unknownOpcode (joinBytes hi lo))
  | [_] => .error .truncated
  | [] => .error .truncated

/-! ### Encode (R85, R87) -/

/-- The nibble of a register index. -/
def regNibble (x : RegIx) : BitVec 4 := BitVec.ofNat 4 x.val

/-- Format `NNN`. -/
def packNnn (g : BitVec 4) (nnn : BitVec 12) : Word := g ++ nnn

/-- Formats `XKK` and `X`. -/
def packXKk (g : BitVec 4) (x : RegIx) (kk : Byte) : Word := (g ++ regNibble x) ++ kk

/-- Formats `XY` and `XYN`. -/
def packXYN (g : BitVec 4) (x y : RegIx) (n : BitVec 4) : Word :=
  (g ++ regNibble x) ++ (regNibble y ++ n)

/-- The word of an instruction (R87). -/
def encode : Instr → Word
  | .cls => 0x00E0#16
  | .ret => 0x00EE#16
  | .jp nnn => packNnn 0x1#4 nnn
  | .call nnn => packNnn 0x2#4 nnn
  | .seVxKk x kk => packXKk 0x3#4 x kk
  | .sneVxKk x kk => packXKk 0x4#4 x kk
  | .seVxVy x y => packXYN 0x5#4 x y 0x0#4
  | .ldVxKk x kk => packXKk 0x6#4 x kk
  | .addVxKk x kk => packXKk 0x7#4 x kk
  | .ldVxVy x y => packXYN 0x8#4 x y 0x0#4
  | .orVxVy x y => packXYN 0x8#4 x y 0x1#4
  | .andVxVy x y => packXYN 0x8#4 x y 0x2#4
  | .xorVxVy x y => packXYN 0x8#4 x y 0x3#4
  | .addVxVy x y => packXYN 0x8#4 x y 0x4#4
  | .subVxVy x y => packXYN 0x8#4 x y 0x5#4
  | .shrVx x y => packXYN 0x8#4 x y 0x6#4
  | .subnVxVy x y => packXYN 0x8#4 x y 0x7#4
  | .shlVx x y => packXYN 0x8#4 x y 0xE#4
  | .sneVxVy x y => packXYN 0x9#4 x y 0x0#4
  | .ldI nnn => packNnn 0xA#4 nnn
  | .jpV0 nnn => packNnn 0xB#4 nnn
  | .rnd x kk => packXKk 0xC#4 x kk
  | .drw x y n => packXYN 0xD#4 x y (BitVec.ofNat 4 n)
  | .skp x => packXKk 0xE#4 x 0x9E#8
  | .sknp x => packXKk 0xE#4 x 0xA1#8
  | .ldVxDt x => packXKk 0xF#4 x 0x07#8
  | .ldVxK x => packXKk 0xF#4 x 0x0A#8
  | .ldDtVx x => packXKk 0xF#4 x 0x15#8
  | .ldStVx x => packXKk 0xF#4 x 0x18#8
  | .addIVx x => packXKk 0xF#4 x 0x1E#8
  | .ldFVx x => packXKk 0xF#4 x 0x29#8
  | .ldBVx x => packXKk 0xF#4 x 0x33#8
  | .ldMemIVx x => packXKk 0xF#4 x 0x55#8
  | .ldVxMemI x => packXKk 0xF#4 x 0x65#8

/-- The two bytes of an instruction as `MEM` holds them, lowest address first (R54). -/
def encodeBytes (i : Instr) : List Byte := [highByte (encode i), lowByte (encode i)]

/-! ### The opcode map as data (R84, R87) -/

/-- One row of R87: a word is of the row exactly when `(op AND mask) == pattern`. -/
structure OpcodeRow where
  mnemonic : String
  mask : Word
  pattern : Word
  deriving DecidableEq, Repr

/-- The rows of R87, in its order. -/
def opcodeMap : List OpcodeRow :=
  [ ⟨"CLS", 0xFFFF#16, 0x00E0#16⟩,
    ⟨"RET", 0xFFFF#16, 0x00EE#16⟩,
    ⟨"JP_nnn", 0xF000#16, 0x1000#16⟩,
    ⟨"CALL_nnn", 0xF000#16, 0x2000#16⟩,
    ⟨"SE_Vx_kk", 0xF000#16, 0x3000#16⟩,
    ⟨"SNE_Vx_kk", 0xF000#16, 0x4000#16⟩,
    ⟨"SE_Vx_Vy", 0xF00F#16, 0x5000#16⟩,
    ⟨"LD_Vx_kk", 0xF000#16, 0x6000#16⟩,
    ⟨"ADD_Vx_kk", 0xF000#16, 0x7000#16⟩,
    ⟨"LD_Vx_Vy", 0xF00F#16, 0x8000#16⟩,
    ⟨"OR_Vx_Vy", 0xF00F#16, 0x8001#16⟩,
    ⟨"AND_Vx_Vy", 0xF00F#16, 0x8002#16⟩,
    ⟨"XOR_Vx_Vy", 0xF00F#16, 0x8003#16⟩,
    ⟨"ADD_Vx_Vy", 0xF00F#16, 0x8004#16⟩,
    ⟨"SUB_Vx_Vy", 0xF00F#16, 0x8005#16⟩,
    ⟨"SHR_Vx", 0xF00F#16, 0x8006#16⟩,
    ⟨"SUBN_Vx_Vy", 0xF00F#16, 0x8007#16⟩ ] ++
  [ ⟨"SHL_Vx", 0xF00F#16, 0x800E#16⟩,
    ⟨"SNE_Vx_Vy", 0xF00F#16, 0x9000#16⟩,
    ⟨"LD_I_nnn", 0xF000#16, 0xA000#16⟩,
    ⟨"JP_V0_nnn", 0xF000#16, 0xB000#16⟩,
    ⟨"RND_Vx_kk", 0xF000#16, 0xC000#16⟩,
    ⟨"DRW_Vx_Vy_n", 0xF000#16, 0xD000#16⟩,
    ⟨"SKP_Vx", 0xF0FF#16, 0xE09E#16⟩,
    ⟨"SKNP_Vx", 0xF0FF#16, 0xE0A1#16⟩,
    ⟨"LD_Vx_DT", 0xF0FF#16, 0xF007#16⟩,
    ⟨"LD_Vx_K", 0xF0FF#16, 0xF00A#16⟩,
    ⟨"LD_DT_Vx", 0xF0FF#16, 0xF015#16⟩,
    ⟨"LD_ST_Vx", 0xF0FF#16, 0xF018#16⟩,
    ⟨"ADD_I_Vx", 0xF0FF#16, 0xF01E#16⟩,
    ⟨"LD_F_Vx", 0xF0FF#16, 0xF029#16⟩,
    ⟨"LD_B_Vx", 0xF0FF#16, 0xF033#16⟩,
    ⟨"LD_mem_I_Vx", 0xF0FF#16, 0xF055#16⟩,
    ⟨"LD_Vx_mem_I", 0xF0FF#16, 0xF065#16⟩ ]

/-- The name of an instruction's row in R87 and spec/opcode_table.json. -/
def Instr.mnemonic : Instr → String
  | .cls => "CLS"
  | .ret => "RET"
  | .jp _ => "JP_nnn"
  | .call _ => "CALL_nnn"
  | .seVxKk _ _ => "SE_Vx_kk"
  | .sneVxKk _ _ => "SNE_Vx_kk"
  | .seVxVy _ _ => "SE_Vx_Vy"
  | .ldVxKk _ _ => "LD_Vx_kk"
  | .addVxKk _ _ => "ADD_Vx_kk"
  | .ldVxVy _ _ => "LD_Vx_Vy"
  | .orVxVy _ _ => "OR_Vx_Vy"
  | .andVxVy _ _ => "AND_Vx_Vy"
  | .xorVxVy _ _ => "XOR_Vx_Vy"
  | .addVxVy _ _ => "ADD_Vx_Vy"
  | .subVxVy _ _ => "SUB_Vx_Vy"
  | .shrVx _ _ => "SHR_Vx"
  | .subnVxVy _ _ => "SUBN_Vx_Vy"
  | .shlVx _ _ => "SHL_Vx"
  | .sneVxVy _ _ => "SNE_Vx_Vy"
  | .ldI _ => "LD_I_nnn"
  | .jpV0 _ => "JP_V0_nnn"
  | .rnd _ _ => "RND_Vx_kk"
  | .drw _ _ _ => "DRW_Vx_Vy_n"
  | .skp _ => "SKP_Vx"
  | .sknp _ => "SKNP_Vx"
  | .ldVxDt _ => "LD_Vx_DT"
  | .ldVxK _ => "LD_Vx_K"
  | .ldDtVx _ => "LD_DT_Vx"
  | .ldStVx _ => "LD_ST_Vx"
  | .addIVx _ => "ADD_I_Vx"
  | .ldFVx _ => "LD_F_Vx"
  | .ldBVx _ => "LD_B_Vx"
  | .ldMemIVx _ => "LD_mem_I_Vx"
  | .ldVxMemI _ => "LD_Vx_mem_I"

/-! ### The host's view of the decoder -/

/-- The word of an opcode-table row's bits: the table numbers bit 0 as the least significant bit of the
one 16-bit word; bits above `nbits` are 0. -/
def tableWord (nbits w : Nat) : Word := BitVec.ofNat 16 (w % 2 ^ nbits)

/-- What the decoder reads from the instruction whose bits are `w`, laid out big-endian (R54). -/
def decodeTableWord (nbits w : Nat) : Option Instr :=
  match decodeBytes [highByte (tableWord nbits w), lowByte (tableWord nbits w)] with
  | .ok (i, _) => some i
  | .error _ => none

end Sys2Proof
end

