-- ==== Sys2Proof/Config.lean ====
section
/-! DEFINITION. What an implementation fixes: the constants of 00_scope.md R6, the parameters of R7 that
a cycle reads, and the free values of the two inputs no rule constrains (10_state.md R34). -/

namespace Sys2Proof

/-- `VF_ALIAS_POLICY` (R7): how an instruction that reads `V[0xF]` as an operand and writes it as a flag
samples its operands (41_alu.md R120). -/
inductive VfAliasPolicy where
  | operandsFirst
  | sequential
  | refuse
  deriving DecidableEq, Repr

/-- The parameters of R7 that a cycle reads. Those of power-on alone are arguments of `Machine.powerOn`. -/
structure Params where
  /-- `RNG_OVERRIDE`: when a byte, `CXKK` uses it in place of the random draw (R132). -/
  rngOverride : Option Byte
  /-- `TICK_DIV`: cycles from one tick to the next, at least 1 (R7, R185). DESIGN CHOICE: the type admits 0,
  which R7 excludes; `Machine.State.schedulerCount` says what happens then (log 37). Unsafe. -/
  tickDiv : Nat
  /-- `VF_ALIAS_POLICY` (R120). -/
  vfAlias : VfAliasPolicy
  deriving DecidableEq, Repr

namespace Config

/-- `MEM_SIZE` (R6). -/
abbrev memSize : Nat := 4096

/-- `STACK_DEPTH` (R6). -/
abbrev stackDepth : Nat := 16

/-- `FB_W` (R6). -/
abbrev fbW : Nat := 64

/-- `FB_H` (R6). -/
abbrev fbH : Nat := 32

/-- `PROG_BASE` (R6). -/
abbrev progBase : Word := 0x200#16

/-- `GLYPH_STRIDE` (R6). -/
abbrev glyphStride : Nat := 5

/-- `ROM_MAX` (R6). -/
abbrev romMax : Nat := 3584

/-- The defaults of R7. DESIGN CHOICE (the spec's D1, D9, D14; log 6). Unsafe. -/
def params : Params := { rngOverride := none, tickDiv := 8, vfAlias := .operandsFirst }

/-- FREE VALUE: the key held in the cycle whose inputs are sampled `n`-th, once the environment's
explicit list of inputs is used up. DESIGN CHOICE (log 1). Safe: nothing constrains it. -/
opaque keyInput : Nat → Option (BitVec 4)

/-- FREE VALUE: the random byte of that cycle (R132, "a draw under no law"). DESIGN CHOICE (log 1).
Safe: nothing constrains it. -/
opaque rndInput : Nat → Byte

end Config

end Sys2Proof
end

