-- ==== Sys2Proof/Machine/State.lean ====
section
/-! DEFINITION. The state of the core as plain data (10_state.md R20 to R40), the reasons a step can stop,
and the state after power-on with every parameter at its default and no ROM (R37). -/

namespace Sys2Proof.Machine

/-- `MODE` (R31). -/
inductive Mode where
  /-- `RUN`. -/
  | run
  /-- `WAITKEY(x)`: an `FX0A` waits for a key for `V[x]`. -/
  | waitKey (x : RegIx)
  deriving DecidableEq, Repr

/-- The fault kinds; the name is the code (60_exceptions.md R170, D20). -/
inductive FaultKind where
  /-- An address above 0xFFF (R171). -/
  | outOfRangeAddress
  /-- A word that is none of the 34 instructions (R172). -/
  | unknownOpcode
  /-- A return with `SP >= 16` (R174). -/
  | stackOutOfRange
  /-- A ROM of more than 3584 bytes, at load time (R173). -/
  | romTooLarge
  deriving DecidableEq, Repr

/-- The fault record (R176). -/
structure FaultRecord where
  kind : FaultKind
  /-- The address the faulting instruction was, or was to be, fetched from. -/
  ia : Word
  /-- The word fetched, `none` for a fetch fault. -/
  opcode : Option Word
  /-- The offending address or `SP` value, `none` for `unknownOpcode`. -/
  addr : Option Nat
  deriving DecidableEq, Repr

/-- The inputs of one cycle (R34). -/
structure Inputs where
  /-- The key held, or none. -/
  key : Option (BitVec 4)
  /-- The random byte. -/
  rnd : Byte
  /-- `reset` asserted: the transition is a reset instead of a cycle. -/
  reset : Bool
  deriving DecidableEq, Repr

/-- `MEM`: the bytes that differ from what an unlisted address reads as, by rising address (R27).
The operations are in Machine/Ops.lean. -/
abbrev Memory := List Host.Cell

/-- `STK` (R28). -/
abbrev Stack := Vector Word 16

/-- `FB[x][y]`: 64 columns of 32 rows (R29). -/
abbrev Framebuffer := Vector (Vector Bool 32) 64

/-- The state record of R40, with the parameters a cycle reads (log 5) and the inputs (log 1). -/
structure State where
  /-- `V[0]`..`V[15]` (R20). -/
  v : Vector Byte 16
  /-- `I` (R22). -/
  i : Word
  /-- `PC` (R23). -/
  pc : Word
  /-- `SP` (R24). -/
  sp : Byte
  /-- `DT` (R25). -/
  dt : Byte
  /-- `ST` (R26). -/
  st : Byte
  /-- `MEM` (R27). -/
  mem : Memory
  /-- `STK` (R28). -/
  stk : Stack
  /-- `FB` (R29). -/
  fb : Framebuffer
  /-- `MODE` (R31). -/
  mode : Mode
  /-- `CYC` (R32). -/
  cyc : Nat
  /-- `FAULT` (R33). -/
  fault : Option FaultRecord
  /-- The `refresh` output of the cycle just completed (R35; the model's own latch, log 29). -/
  refresh : Bool
  /-- The parameters of R7 a cycle reads (log 5). No step changes them. -/
  cfg : Params
  /-- The inputs of the coming cycles that the environment has chosen already (the model's own, log 1). -/
  inputs : List Inputs
  /-- How many cycles have sampled their inputs (the model's own, log 1). -/
  inputCount : Nat
  deriving DecidableEq, Repr

/-- Why the machine stops. -/
inductive Fault where
  /-- Raised by `step` in the halted state once no input is left that could assert `reset`: "in the halted
  state the core has no transition at all" (R12, R177). Carries the fault record. Safe (log 3). -/
  | halted (r : FaultRecord)
  /-- Raised by `powerOn` for a too long ROM: "the run does not start" (R173). Safe (log 28). -/
  | loadFailed (kind : FaultKind)
  deriving DecidableEq, Repr

/-- Why an instruction has no meaning. -/
inductive Refusal where
  /-- Raised by an arm of `exec` for an instruction not modelled yet. Safe. No arm raises it. -/
  | notModelled (mnemonic : String)
  /-- Raised by `8XY5`, `8XY6`, `8XY7`, `8XYE` on the aliased forms when `VF_ALIAS_POLICY = refuse`, which
  "makes a model give those same forms no meaning" (R120). Safe (log 34). -/
  | vfAliased
  deriving DecidableEq, Repr

/-- The state right after power-on with the defaults of R7 and an empty ROM (R37). The contents of `STK` and
`FB`, `CYC` and the parameters are DESIGN CHOICE (the spec's defaults; log 6, 9, 10, 11), unsafe; the fields
`refresh`, `inputs`, `inputCount` are the model's own, DESIGN CHOICE (log 33), unsafe; `mem` lists nothing
(log 7, log 8). -/
def State.reset : State where
  v := Vector.replicate 16 0#8
  i := 0#16
  pc := Config.progBase
  sp := 0#8
  dt := 0#8
  st := 0#8
  mem := []
  stk := Vector.replicate 16 0#16
  fb := Vector.replicate 64 (Vector.replicate 32 false)
  mode := .run
  cyc := 0
  fault := none
  refresh := false
  cfg := Config.params
  inputs := []
  inputCount := 0

end Sys2Proof.Machine
end

