-- ==== Sys2Proof/Machine/Ops.lean ====
section
/-! DEFINITION. The named operations over the state: memory, registers, call stack, framebuffer, inputs,
fetch, taking a fault, the reset that is the only way out of one, the key wait and the tick. -/

namespace Sys2Proof.Machine

/-! ### Byte memory (20_memory.md R50 to R59) -/

/-- The default of `GLYPHS` (R58), sixteen glyphs of five bytes. PRESUMED (the spec's D12, from general
knowledge; log 8). Unsafe. -/
def glyphs : List Byte :=
  [ 0xF0#8, 0x90#8, 0x90#8, 0x90#8, 0xF0#8,
    0x20#8, 0x60#8, 0x20#8, 0x20#8, 0x70#8,
    0xF0#8, 0x10#8, 0xF0#8, 0x80#8, 0xF0#8,
    0xF0#8, 0x10#8, 0xF0#8, 0x10#8, 0xF0#8,
    0x90#8, 0x90#8, 0xF0#8, 0x10#8, 0x10#8,
    0xF0#8, 0x80#8, 0xF0#8, 0x10#8, 0xF0#8,
    0xF0#8, 0x80#8, 0xF0#8, 0x90#8, 0xF0#8,
    0xF0#8, 0x10#8, 0x20#8, 0x40#8, 0x40#8 ] ++
  [ 0xF0#8, 0x90#8, 0xF0#8, 0x90#8, 0xF0#8,
    0xF0#8, 0x90#8, 0xF0#8, 0x10#8, 0xF0#8,
    0xF0#8, 0x90#8, 0xF0#8, 0x90#8, 0x90#8,
    0xE0#8, 0x90#8, 0xE0#8, 0x90#8, 0xE0#8,
    0xF0#8, 0x80#8, 0x80#8, 0x80#8, 0xF0#8,
    0xE0#8, 0x90#8, 0x90#8, 0x90#8, 0xE0#8,
    0xF0#8, 0x80#8, 0xF0#8, 0x80#8, 0xF0#8,
    0xF0#8, 0x80#8, 0xF0#8, 0x80#8, 0x80#8 ]

/-- What an address that `MEM` does not list reads as: the glyph byte in 0x000..0x04F, else 0, the default
of `MEM_INIT` (R37, R57). DESIGN CHOICE (the spec's D11, D12; log 7, log 8). Unsafe. -/
def Memory.unlisted (a : Nat) : Byte := glyphs.getD a 0#8

/-- The byte at `a`, whatever `a`; the bounds check is `memAddr`. -/
def Memory.read : Memory → Nat → Byte
  | [], a => Memory.unlisted a
  | (k, b) :: m, a => if k = a then b else Memory.read m a

/-- Put a cell before the first cell of a higher address. -/
def Memory.insertCell (a : Nat) (b : Byte) : Memory → Memory
  | [] => [(a, b)]
  | c :: m => if a < c.1 then (a, b) :: c :: m else c :: Memory.insertCell a b m

/-- Store `b` at `a`; the value an unlisted address reads as is not listed. -/
def Memory.write (m : Memory) (a : Nat) (b : Byte) : Memory :=
  let others := m.filter (fun c => c.1 != a)
  if b = Memory.unlisted a then others else Memory.insertCell a b others

/-- Addresses at least `lo`, strictly rising, inside `MEM`, and no cell equal to what is read unlisted. -/
def Memory.wfFrom : Nat → Memory → Bool
  | _, [] => true
  | lo, (k, b) :: m =>
    decide (lo ≤ k) && decide (k < Config.memSize) && (b != Memory.unlisted k) && Memory.wfFrom (k + 1) m

/-- The canonical form of `MEM`. -/
def Memory.wf (m : Memory) : Bool := Memory.wfFrom 0 m

/-- Store a run of bytes at ascending addresses from `a`. -/
def Memory.writeBytes (m : Memory) (a : Nat) : List Byte → Memory
  | [] => m
  | b :: bs => Memory.writeBytes (Memory.write m a b) (a + 1) bs

/-- `mem_addr` (R51, R71): the identity with a bounds check; `error a` is `OutOfRangeAddress(a)`. DESIGN CHOICE: no
other protection (the spec's D21; log 27). Unsafe. -/
def memAddr (a : Nat) : Except Nat Nat := if a > 0xFFF then .error a else .ok a

/-- `MemRead(a, 1)` (R52). -/
def State.memRead (s : State) (a : Nat) : Except Nat Byte :=
  match memAddr a with
  | .ok k => .ok (s.mem.read k)
  | .error bad => .error bad

/-- `MemWrite(a, 1, b)` (R53). -/
def State.memWrite (s : State) (a : Nat) (b : Byte) : Except Nat State :=
  match memAddr a with
  | .ok k => .ok { s with mem := s.mem.write k b }
  | .error bad => .error bad

/-- The all-or-nothing check of a run of `len` bytes at `a` (R63, R64): `some` is the lowest offending
address, `max(a, 0x1000)`. DESIGN CHOICE for the reported address (the spec's D27; log 22). Unsafe. -/
def rangeFault (a len : Nat) : Option Nat :=
  if len > 0 ∧ a + len - 1 > 0xFFF then some (max a 0x1000) else none

/-! ### Registers -/

/-- Read `V[x]` (R20). -/
def State.getV (s : State) (x : RegIx) : Byte := s.v[x]

/-- Write `V[x]` (R20): no register is hard-wired. -/
def State.setV (s : State) (x : RegIx) (b : Byte) : State := { s with v := s.v.set x b }

/-- Write `I` (R22). -/
def State.setI (s : State) (w : Word) : State := { s with i := w }

/-- Write `PC` (R23). -/
def State.setPc (s : State) (w : Word) : State := { s with pc := w }

/-- Write `SP` (R24). -/
def State.setSp (s : State) (b : Byte) : State := { s with sp := b }

/-- Write `DT` (R25). -/
def State.setDt (s : State) (b : Byte) : State := { s with dt := b }

/-- Write `ST` (R26). -/
def State.setSt (s : State) (b : Byte) : State := { s with st := b }

/-- Write `MODE` (R31). -/
def State.setMode (s : State) (m : Mode) : State := { s with mode := m }

/-- Write `CYC` (R32). -/
def State.setCyc (s : State) (n : Nat) : State := { s with cyc := n }

/-- Write `MEM` whole. -/
def State.setMem (s : State) (m : Memory) : State := { s with mem := m }

/-- Write `STK` whole. -/
def State.setStk (s : State) (k : Stack) : State := { s with stk := k }

/-- Write `FB` whole. -/
def State.setFb (s : State) (f : Framebuffer) : State := { s with fb := f }

/-- Drive `refresh` (R35). -/
def State.setRefresh (s : State) (b : Bool) : State := { s with refresh := b }

/-- Write `FAULT` (R33). -/
def State.setFault (s : State) (r : Option FaultRecord) : State := { s with fault := r }

/-- The advance of the fetch stage, `PC <- (PC + 2) mod 65536` (R83). DESIGN CHOICE for the wrap of `PC`, as for that
of `SP` and `I` (the spec's D16; log 21). Unsafe. -/
def State.advance (s : State) : State := s.setPc (s.pc + 2#16)

/-! ### Call stack (R60, R61) -/

/-- `StkRead(p)`: `none` where the check fails and `StackOutOfRange(p)` is raised. DESIGN CHOICE for that
outcome (the spec's D4; log 14). Safe. -/
def State.stkRead (s : State) (p : Byte) : Option Word :=
  if h : p.toNat < Config.stackDepth then some s.stk[p.toNat] else none

/-- `StkWrite(p, w)`: silently dropped for `p >= 16` (R61, R175). -/
def State.stkWrite (s : State) (p : Byte) (w : Word) : State :=
  if h : p.toNat < Config.stackDepth then s.setStk (s.stk.set p.toNat w) else s

/-! ### Framebuffer (R62) -/

/-- `getPixel(cx, cy)`. -/
def Framebuffer.get (f : Framebuffer) (cx : Fin 64) (cy : Fin 32) : Bool := f[cx][cy]

/-- `setPixel(cx, cy, b)`. -/
def Framebuffer.put (f : Framebuffer) (cx : Fin 64) (cy : Fin 32) (b : Bool) : Framebuffer :=
  f.set cx (f[cx].set cy b)

/-- All pixels false. -/
def Framebuffer.clear : Framebuffer := Vector.replicate 64 (Vector.replicate 32 false)

/-- The pixel `FB[cx][cy]` of a state. -/
def State.pixel (s : State) (cx : Fin 64) (cy : Fin 32) : Bool := s.fb.get cx cy

/-! ### Inputs and outputs (R34, R35) -/

/-- The inputs of the coming cycle: the environment's explicit choice, or the free values with `reset` not
asserted. DESIGN CHOICE (log 1, log 2). -/
def State.input (s : State) : Inputs :=
  match s.inputs with
  | x :: _ => x
  | [] => { key := Config.keyInput s.inputCount, rnd := Config.rndInput s.inputCount, reset := false }

/-- The cycle's inputs are used up: "each input is sampled once per cycle". -/
def State.consumeInput (s : State) : State :=
  { s with inputs := s.inputs.tail, inputCount := s.inputCount + 1 }

/-- The byte `CXKK` draws (R132): the override, else this cycle's `rnd`. -/
def State.randomByte (s : State) : Byte :=
  match s.cfg.rngOverride with
  | some b => b
  | none => s.input.rnd

/-- `fb_view` (R35). -/
def State.fbView (s : State) : Framebuffer := s.fb

/-- `snd` (R35, R187). -/
def State.snd (s : State) : Bool := s.st != 0#8

/-! ### Taking a fault, and the way out (60_exceptions.md R170 to R180, R201) -/

/-- Fault entry (R176, R177): the one operation that writes the record. Nothing else changes, `PC`
included: there is no handler to go to. DESIGN CHOICE for what the record holds (the spec's D5; log 15). Unsafe. -/
def State.takeFault (s : State) (kind : FaultKind) (ia : Word) (opcode : Option Word)
    (addr : Option Nat) : State :=
  s.setFault (some { kind := kind, ia := ia, opcode := opcode, addr := addr })

/-- A fault of the execute stage of `i`: `PC` is `ia + 2` already, the opcode is the word of `i` (R178).
DEDUCED: `ia` is `PC - 2` and the opcode is `encode i`, since the fetch advanced `PC` (log 4). Safe. -/
def State.execFault (s : State) (i : Instr) (kind : FaultKind) (addr : Nat) : State :=
  s.takeFault kind (s.pc - 2#16) (some (encode i)) (some addr)

/-- A fetch fault: nothing has changed, there is no opcode (R82, R171, R178). -/
def State.fetchFault (s : State) (bad : Nat) : State :=
  s.takeFault .outOfRangeAddress s.pc none (some bad)

/-- A decode fault: only the advance of `PC` stands (R172, R178). -/
def State.decodeFault (s : State) (op : Word) : State :=
  s.advance.takeFault .unknownOpcode s.pc (some op) none

/-- The reset input (R201): registers, `MODE`, `CYC` and `FAULT`; `MEM`, `STK` and `FB` are not changed.
DESIGN CHOICE for `MODE`, `CYC`, `FAULT` (the spec's D15; log 20). Unsafe. -/
def State.applyReset (s : State) : State :=
  { s with
    v := Vector.replicate 16 0#8
    i := 0#16
    dt := 0#8
    st := 0#8
    pc := Config.progBase
    sp := 0#8
    mode := .run
    cyc := 0
    fault := none
    refresh := false }

/-! ### Fetch (R82) -/

/-- The two bytes at `PC`, joined big-endian, or the out-of-range address. DESIGN CHOICE: no alignment check, and `MEM`
as the last store left it (the spec's D30, D31; log 25). Unsafe. -/
def State.fetch (s : State) : Except Nat Word :=
  match s.memRead s.pc.toNat with
  | .error bad => .error bad
  | .ok hi =>
    match s.memRead (s.pc.toNat + 1) with
    | .error bad => .error bad
    | .ok lo => .ok (joinBytes hi lo)

/-! ### Skip (40_flow.md R109) -/

/-- `skip` when the condition holds. -/
def State.skipIf (s : State) (c : Bool) : State := if c then s.setPc (s.pc + 2#16) else s

/-! ### Key wait (44_keys_timers.md R164) -/

/-- One poll of a pending `FX0A`. DESIGN CHOICE: level-sensitive (the spec's D7; log 17). Unsafe. -/
def State.engineWait (s : State) (x : RegIx) : State :=
  match s.input.key with
  | some k => (s.setV x (k.setWidth 8)).setMode .run
  | none => s

/-! ### Scheduler (R184 to R186) -/

/-- A countdown by one that stays at 0. -/
def countDown (b : Byte) : Byte := if b = 0#8 then 0#8 else b - 1#8

/-- The tick (R184): each timer once, and the `refresh` strobe. -/
def State.tick (s : State) : State :=
  ((s.setDt (countDown s.dt)).setSt (countDown s.st)).setRefresh true

/-- `SchedulerCount` (R185). DESIGN CHOICE for where ticks fall (the spec's D9, D28; log 11, log 23). Unsafe.
DESIGN CHOICE for `TICK_DIV = 0`, which R7 excludes: no tick ever falls and `CYC` only counts up (log 37). Unsafe. -/
def State.schedulerCount (s : State) : State :=
  if s.cyc + 1 = s.cfg.tickDiv then (s.setCyc 0).tick else s.setCyc (s.cyc + 1)

/-- The start of a cycle: the strobe of the cycle before is over (R35). -/
def State.beginCycle (s : State) : State := s.setRefresh false

/-- The end of a cycle (R39): no count and no tick in a cycle that faulted. DESIGN CHOICE (the spec's D6; log 16).
Unsafe. -/
def State.endCycle (s : State) : State :=
  (if s.fault.isSome then s else s.schedulerCount).consumeInput

/-- The outcome of the engine part, completed by the end of the cycle (R39). -/
def completeCycle : Host.Outcome State Fault Refusal → Host.Outcome State Fault Refusal
  | .next t => .next t.endCycle
  | .fault r => .fault r
  | .refused r => .refused r

/-- A cycle of the halted core without `reset`: nothing changes while inputs go by; with no input left that
could assert `reset` there is no transition at all (R12, R39, R177). DESIGN CHOICE (log 3). Safe. -/
def State.haltedCycle (s : State) (r : FaultRecord) : Host.Outcome State Fault Refusal :=
  match s.inputs with
  | [] => .fault (.halted r)
  | _ :: _ => .next s.beginCycle.consumeInput

/-! ### The host's placement of one instruction -/

/-- `s` made to fetch: running, not halted, `reset` not asserted, and `PC` at two cells of `MEM`. -/
def State.readyToFetch (s : State) : State :=
  { s with
    mode := .run
    fault := none
    inputs := match s.inputs with
      | x :: xs => { x with reset := false } :: xs
      | [] => []
    pc := if s.pc.toNat + 1 > 0xFFF then Config.progBase else s.pc }

/-- The word at `PC`, big-endian (R54). -/
def State.placeWord (s : State) (op : Word) : State :=
  s.setMem (s.mem.writeBytes s.pc.toNat [highByte op, lowByte op])

end Sys2Proof.Machine
end

