-- ==== Sys2Proof/Machine/Flags.lean ====
section
/-! DEFINITION. The flag computations of 41_alu.md and the write order of flag and result (10_state.md R21,
41_alu.md R120, R133). -/

namespace Sys2Proof.Machine

/-- A flag as a full byte, 0x00 or 0x01 (R21). -/
def flagByte (c : Bool) : Byte := if c then 1#8 else 0#8

/-- Carry out of bit 7: `a + b > 255` (R127). -/
def carryOut (a b : Byte) : Bool := decide (a.toNat + b.toNat > 255)

/-- Strict unsigned `a > b` (R128, R133); 0 on equal operands. -/
def greater (a b : Byte) : Bool := decide (a.toNat > b.toNat)

/-- The bit a right shift by one sends out (R129). -/
def lowBitOut (a : Byte) : Bool := a.getLsbD 0

/-- The bit a left shift by one sends out (R131). -/
def highBitOut (a : Byte) : Bool := a.getLsbD 7

/-- Flag first, result second: at `x = 0xF` the result survives (R120). -/
def State.writeFlagResult (s : State) (x : RegIx) (flag result : Byte) : State :=
  (s.setV VF flag).setV x result

/-- Exactly one of `x`, `y` is 0xF: the aliased forms of `8XY5` and `8XY7` (R120). -/
def oneIsVF (x y : RegIx) : Bool := xor (decide (x = VF)) (decide (y = VF))

/-- A flag-writing row whose result is read from the register file, under each `VF_ALIAS_POLICY` (R120).
`flag` and `result` are functions of `V[x]` and `V[y]`; `aliased` marks the forms whose outcome depends on
the policy. DESIGN CHOICE (the spec's D1, D2; log 12, log 34). Unsafe. -/
def State.aluFlagged (s : State) (aliased : Bool) (x y : RegIx) (flag : Byte → Byte → Bool)
    (result : Byte → Byte → Byte) : Host.Outcome State Fault Refusal :=
  let f := flagByte (flag (s.getV x) (s.getV y))
  match s.cfg.vfAlias with
  | .operandsFirst => .next (s.writeFlagResult x f (result (s.getV x) (s.getV y)))
  | .sequential => .next ((s.setV VF f).setV x (result ((s.setV VF f).getV x) ((s.setV VF f).getV y)))
  | .refuse =>
    if aliased then .refused .vfAliased
    else .next (s.writeFlagResult x f (result (s.getV x) (s.getV y)))

end Sys2Proof.Machine
end

