-- ==== Sys2Proof/Machine/Alu.lean ====
section
/-! DEFINITION. Register load, arithmetic, logic, shifts, random (41_alu.md R120 to R134). -/

namespace Sys2Proof.Machine

/-- `6XKK` (R121). -/
def execLdVxKk (x : RegIx) (kk : Byte) (s : State) : Host.Outcome State Fault Refusal :=
  .next (s.setV x kk)

/-- `7XKK` (R122): no carry flag. -/
def execAddVxKk (x : RegIx) (kk : Byte) (s : State) : Host.Outcome State Fault Refusal :=
  .next (s.setV x (s.getV x + kk))

/-- `8XY0` (R123). -/
def execLdVxVy (x y : RegIx) (s : State) : Host.Outcome State Fault Refusal :=
  .next (s.setV x (s.getV y))

/-- `8XY1` (R124): `V[0xF]` is not written (the spec's D26; log 26). -/
def execOrVxVy (x y : RegIx) (s : State) : Host.Outcome State Fault Refusal :=
  .next (s.setV x (s.getV x ||| s.getV y))

/-- `8XY2` (R125): `V[0xF]` is not written. -/
def execAndVxVy (x y : RegIx) (s : State) : Host.Outcome State Fault Refusal :=
  .next (s.setV x (s.getV x &&& s.getV y))

/-- `8XY3` (R126): `V[0xF]` is not written. -/
def execXorVxVy (x y : RegIx) (s : State) : Host.Outcome State Fault Refusal :=
  .next (s.setV x (s.getV x ^^^ s.getV y))

/-- `8XY4` (R127): the same under every `VF_ALIAS_POLICY`, the sum being computed before any write. -/
def execAddVxVy (x y : RegIx) (s : State) : Host.Outcome State Fault Refusal :=
  .next (s.writeFlagResult x (flagByte (carryOut (s.getV x) (s.getV y))) (s.getV x + s.getV y))

/-- `8XY5` (R128): strict `>`. -/
def execSubVxVy (x y : RegIx) (s : State) : Host.Outcome State Fault Refusal :=
  s.aluFlagged (oneIsVF x y) x y greater (fun a b => a - b)

/-- `8XY6` (R129): `V[x]` in place; `y` is ignored (R89; the spec's D25; log 26). -/
def execShrVx (x y : RegIx) (s : State) : Host.Outcome State Fault Refusal :=
  s.aluFlagged (decide (x = VF)) x y (fun a _ => lowBitOut a) (fun a _ => a >>> 1)

/-- `8XY7` (R130): the difference `V[x] - V[y]` as the source writes it (the spec's D29; log 24). -/
def execSubnVxVy (x y : RegIx) (s : State) : Host.Outcome State Fault Refusal :=
  s.aluFlagged (oneIsVF x y) x y (fun a b => greater b a) (fun a b => a - b)

/-- `8XYE` (R131): `V[x]` in place; `y` is ignored (R89). -/
def execShlVx (x y : RegIx) (s : State) : Host.Outcome State Fault Refusal :=
  s.aluFlagged (decide (x = VF)) x y (fun a _ => highBitOut a) (fun a _ => a <<< 1)

/-- `CXKK` (R132). -/
def execRnd (x : RegIx) (kk : Byte) (s : State) : Host.Outcome State Fault Refusal :=
  .next (s.setV x (s.randomByte &&& kk))

end Sys2Proof.Machine
end

