-- ==== Sys2Proof/Machine/Operands.lean ====
section
/-! DEFINITION. The operand forms: zero extension (30_encoding.md R86), the one addressing mode (42_index_memory.md
R140), the register range of `FX55` and `FX65`, the decimal digits of `FX33`, the glyph address of `FX29` and the
pixels and bits of a sprite (43_display.md R152). -/

namespace Sys2Proof.Machine

/-- `zext_16(nnn)`. -/
def zextNnn (nnn : BitVec 12) : Word := nnn.setWidth 16

/-- `zext_16(V[x])`. -/
def zextByte (b : Byte) : Word := b.setWidth 16

/-- `EA(k) = I + k`, an exact integer (R63, R140). -/
def State.ea (s : State) (k : Nat) : Nat := s.i.toNat + k

/-- `0..x`, the registers of `FX55` and `FX65`, inclusive. -/
def regsUpTo (x : RegIx) : List RegIx := (List.finRange 16).filter (fun k => decide (k ≤ x))

/-- `V[0]..V[x]` (R145). -/
def State.regBytes (s : State) (x : RegIx) : List Byte := (regsUpTo x).map s.getV

/-- `V[k] <- MEM[I + k]` for `k` in `0..x` (R146); the range is checked before. -/
def State.loadRegs (s : State) (x : RegIx) : State :=
  (regsUpTo x).foldl (fun t k => t.setV k (s.mem.read (s.ea k.val))) s

/-- Hundreds, tens, units (R144). -/
def bcdDigits (b : Byte) : List Byte :=
  [ BitVec.ofNat 8 (b.toNat / 100), BitVec.ofNat 8 (b.toNat / 10 % 10), BitVec.ofNat 8 (b.toNat % 10) ]

/-- `glyph_addr(d) = d * 5`, of the whole byte (R71, R143). -/
def glyphAddr (d : Byte) : Word := BitVec.ofNat 16 (d.toNat * Config.glyphStride)

/-- Column `(V[x] + col) mod 64` (R62). -/
def pixelX (vx : Byte) (col : Nat) : Fin 64 := Fin.ofNat 64 (vx.toNat + col)

/-- Row `(V[y] + row) mod 32` (R62). -/
def pixelY (vy : Byte) (row : Nat) : Fin 32 := Fin.ofNat 32 (vy.toNat + row)

/-- Bit of a sprite row at column `col`: column 0 is bit 7, the leftmost pixel (R54, R152). -/
def spriteBit (b : Byte) (col : Nat) : Bool := b.getLsbD (7 - col)

/-- One pixel of a draw: XOR, and the collision so far (R152, R153). -/
def drawPixel (vx vy : Byte) (row : Nat) (b : Byte) (acc : Framebuffer × Bool) (col : Nat) :
    Framebuffer × Bool :=
  let old := acc.1.get (pixelX vx col) (pixelY vy row)
  (acc.1.put (pixelX vx col) (pixelY vy row) (xor old (spriteBit b col)),
    acc.2 || (spriteBit b col && old))

/-- One row of a draw, columns 0..7. -/
def State.drawRow (s : State) (vx vy : Byte) (acc : Framebuffer × Bool) (row : Nat) :
    Framebuffer × Bool :=
  (List.range 8).foldl (drawPixel vx vy row (s.mem.read (s.ea row))) acc

/-- The whole draw, rows 0..n-1: the new framebuffer and the collision flag (R152). -/
def State.drawSprite (s : State) (vx vy : Byte) (n : Nat) : Framebuffer × Bool :=
  (List.range n).foldl (s.drawRow vx vy) (s.fb, false)

/-- `key != none` and `zext_8(key) == V[x]`: `none` equals no register value (44_keys_timers.md R160, R161).
DESIGN CHOICE for `none` (the spec's D13; log 19). Unsafe. -/
def keyEquals (key : Option (BitVec 4)) (b : Byte) : Bool :=
  match key with
  | some k => k.setWidth 8 == b
  | none => false

end Sys2Proof.Machine
end

