-- ==== Sys2Proof/Machine/Display.lean ====
section
/-! DEFINITION. Clear and draw (43_display.md R150 to R153). -/

namespace Sys2Proof.Machine

/-- `00E0` (R151). -/
def execCls (s : State) : Host.Outcome State Fault Refusal :=
  .next (s.setFb Framebuffer.clear)

/-- `DXYN` (R152): coordinates are sampled before the flag is written; `n = 0` reads nothing and clears the
flag. -/
def execDrw (x y : RegIx) (n : Nat) (s : State) : Host.Outcome State Fault Refusal :=
  match rangeFault (s.ea 0) n with
  | some bad => .next (s.execFault (.drw x y n) .outOfRangeAddress bad)
  | none =>
    .next ((s.setFb (s.drawSprite (s.getV x) (s.getV y) n).1).setV VF
      (flagByte (s.drawSprite (s.getV x) (s.getV y) n).2))

end Sys2Proof.Machine
end

