-- ==== Sys2Proof/Machine/Flow.lean ====
section
/-! DEFINITION. Control transfer (40_flow.md R100 to R109). `PC` holds `ia + 2` on entry. -/

namespace Sys2Proof.Machine

/-- `00EE` (R101): read the slot, then decrement; `StackOutOfRange(SP)` before any write. -/
def execRet (s : State) : Host.Outcome State Fault Refusal :=
  match s.stkRead s.sp with
  | some w => .next ((s.setPc w).setSp (s.sp - 1#8))
  | none => .next (s.execFault .ret .stackOutOfRange s.sp.toNat)

/-- `1NNN` (R102). -/
def execJp (nnn : BitVec 12) (s : State) : Host.Outcome State Fault Refusal :=
  .next (s.setPc (zextNnn nnn))

/-- `2NNN` (R103): increment, push `PC`, jump; a push with `SP >= 16` is dropped (R175). -/
def execCall (nnn : BitVec 12) (s : State) : Host.Outcome State Fault Refusal :=
  .next (((s.setSp (s.sp + 1#8)).stkWrite (s.sp + 1#8) s.pc).setPc (zextNnn nnn))

/-- `3XKK` (R104). -/
def execSeVxKk (x : RegIx) (kk : Byte) (s : State) : Host.Outcome State Fault Refusal :=
  .next (s.skipIf (s.getV x == kk))

/-- `4XKK` (R105). -/
def execSneVxKk (x : RegIx) (kk : Byte) (s : State) : Host.Outcome State Fault Refusal :=
  .next (s.skipIf (s.getV x != kk))

/-- `5XY0` (R106). -/
def execSeVxVy (x y : RegIx) (s : State) : Host.Outcome State Fault Refusal :=
  .next (s.skipIf (s.getV x == s.getV y))

/-- `9XY0` (R107). -/
def execSneVxVy (x y : RegIx) (s : State) : Host.Outcome State Fault Refusal :=
  .next (s.skipIf (s.getV x != s.getV y))

/-- `BNNN` (R108): the sum is not reduced to 12 bits. -/
def execJpV0 (nnn : BitVec 12) (s : State) : Host.Outcome State Fault Refusal :=
  .next (s.setPc (zextNnn nnn + zextByte (s.getV 0)))

end Sys2Proof.Machine
end

