-- ==== Sys2Proof/Machine/IndexMemory.lean ====
section
/-! DEFINITION. Index register, loads and stores (42_index_memory.md R140 to R147). `I` is never changed by an
access (the spec's D24; log 26); every address is checked before anything is written (20_memory.md R64). -/

namespace Sys2Proof.Machine

/-- `ANNN` (R141). -/
def execLdI (nnn : BitVec 12) (s : State) : Host.Outcome State Fault Refusal :=
  .next (s.setI (zextNnn nnn))

/-- `FX1E` (R142): 16-bit, no flag. -/
def execAddIVx (x : RegIx) (s : State) : Host.Outcome State Fault Refusal :=
  .next (s.setI (s.i + zextByte (s.getV x)))

/-- `FX29` (R143): the whole byte times 5 (the spec's D23; log 26). -/
def execLdFVx (x : RegIx) (s : State) : Host.Outcome State Fault Refusal :=
  .next (s.setI (glyphAddr (s.getV x)))

/-- `FX33` (R144). -/
def execLdBVx (x : RegIx) (s : State) : Host.Outcome State Fault Refusal :=
  match rangeFault (s.ea 0) 3 with
  | some bad => .next (s.execFault (.ldBVx x) .outOfRangeAddress bad)
  | none => .next (s.setMem (s.mem.writeBytes (s.ea 0) (bcdDigits (s.getV x))))

/-- `FX55` (R145). -/
def execLdMemIVx (x : RegIx) (s : State) : Host.Outcome State Fault Refusal :=
  match rangeFault (s.ea 0) (x.val + 1) with
  | some bad => .next (s.execFault (.ldMemIVx x) .outOfRangeAddress bad)
  | none => .next (s.setMem (s.mem.writeBytes (s.ea 0) (s.regBytes x)))

/-- `FX65` (R146). -/
def execLdVxMemI (x : RegIx) (s : State) : Host.Outcome State Fault Refusal :=
  match rangeFault (s.ea 0) (x.val + 1) with
  | some bad => .next (s.execFault (.ldVxMemI x) .outOfRangeAddress bad)
  | none => .next (s.loadRegs x)

end Sys2Proof.Machine
end

