-- ==== Sys2Proof/Machine/KeysTimers.lean ====
section
/-! DEFINITION. Keypad and timers (44_keys_timers.md R160 to R167). -/

namespace Sys2Proof.Machine

/-- `EX9E` (R161). -/
def execSkp (x : RegIx) (s : State) : Host.Outcome State Fault Refusal :=
  .next (s.skipIf (keyEquals s.input.key (s.getV x)))

/-- `EXA1` (R162), the exact complement. -/
def execSknp (x : RegIx) (s : State) : Host.Outcome State Fault Refusal :=
  .next (s.skipIf (!keyEquals s.input.key (s.getV x)))

/-- `FX07` (R163). -/
def execLdVxDt (x : RegIx) (s : State) : Host.Outcome State Fault Refusal :=
  .next (s.setV x s.dt)

/-- `FX0A` (R164): completes in this cycle if a key is held, else the core waits (the spec's D7; log 17). -/
def execLdVxK (x : RegIx) (s : State) : Host.Outcome State Fault Refusal :=
  .next (match s.input.key with
    | some k => s.setV x (k.setWidth 8)
    | none => s.setMode (.waitKey x))

/-- `FX15` (R165). -/
def execLdDtVx (x : RegIx) (s : State) : Host.Outcome State Fault Refusal :=
  .next (s.setDt (s.getV x))

/-- `FX18` (R166). -/
def execLdStVx (x : RegIx) (s : State) : Host.Outcome State Fault Refusal :=
  .next (s.setSt (s.getV x))

end Sys2Proof.Machine
end

