-- ==== Sys2Proof/Machine/Step.lean ====
section
/-! DEFINITION. The cycle, the one transition of the machine (10_state.md R39). -/

namespace Sys2Proof.Machine

/-- `EngineStep`: fetch, advance, decode, execute; the first check that fails is the fault (60_exceptions.md R179).
DESIGN CHOICE for the order of checks (the spec's D32; log 36). Safe. -/
def engineStep (s : State) : Host.Outcome State Fault Refusal :=
  match s.fetch with
  | .error bad => .next (s.fetchFault bad)
  | .ok op =>
    match decode op with
    | none => .next (s.decodeFault op)
    | some i => exec i s.advance

/-- The engine part of a cycle: an instruction, or one poll of a pending key wait, which is a cycle like any other.
DESIGN CHOICE: the timers run during the wait (the spec's D8; log 18). Unsafe. -/
def engine (s : State) : Host.Outcome State Fault Refusal :=
  match s.mode with
  | .run => engineStep s
  | .waitKey x => .next (s.engineWait x)

/-- One cycle, or the reset that replaces it. -/
def step (s : State) : Host.Outcome State Fault Refusal :=
  if s.input.reset then .next s.applyReset.consumeInput
  else
    match s.fault with
    | some r => s.haltedCycle r
    | none => completeCycle (engine s.beginCycle)

/-- `s` with the instruction of bits `w` where `step` fetches its next instruction (log 28, log 31). -/
def State.withFetchWord (s : State) (nbits w : Nat) : State :=
  s.readyToFetch.placeWord (tableWord nbits w)

end Sys2Proof.Machine
end

