-- ==== Sys2Proof/Machine/PowerOn.lean ====
section
/-! DEFINITION. The power-on sequence with every parameter of 00_scope.md R7 an argument (70_reset_and_hazards.md
R200) and the ROM load (20_memory.md R65). -/

namespace Sys2Proof.Machine

/-- The parameters of R7 that power-on alone reads. -/
structure PowerOn where
  /-- `GLYPHS`, 80 bytes for 0x000..0x04F. -/
  glyphBytes : Vector Byte 80
  /-- `MEM_INIT`, read at 0x050..0xFFF. -/
  memInit : Nat → Byte
  /-- `STK_INIT`. -/
  stkInit : Stack
  /-- `FB_INIT`. -/
  fbInit : Framebuffer
  /-- The parameters a cycle reads. -/
  cfg : Params
  /-- `ROM`. -/
  rom : List Byte
  /-- The environment's inputs of the coming cycles (the model's own, log 1). -/
  inputs : List Inputs

/-- Step 1 of R200: `MEM_INIT` at 0x050..0xFFF. -/
def PowerOn.initBytes (p : PowerOn) : List Byte := (List.range 4016).map (fun k => p.memInit (0x050 + k))

/-- `MEM` after steps 1 to 3 of R200: initial contents, glyphs, ROM. -/
def PowerOn.memory (p : PowerOn) : Memory :=
  ((Memory.writeBytes [] 0x050 p.initBytes).writeBytes 0x000 p.glyphBytes.toList).writeBytes 0x200 p.rom

/-- The power-on sequence; a too long ROM fails with `ROMTooLarge` and the run does not start (R173).
DESIGN CHOICE for the order (the spec's D22; log 28). Safe. DESIGN CHOICE: `TICK_DIV = 0` is not refused (log 37).
Unsafe. -/
def powerOn (p : PowerOn) : Host.Outcome State Fault Refusal :=
  if p.rom.length > Config.romMax then .fault (.loadFailed .romTooLarge)
  else .next
    { State.reset with mem := p.memory, stk := p.stkInit, fb := p.fbInit, cfg := p.cfg, inputs := p.inputs }

/-- The defaults of R7 and a ROM (R58, D11, D12). -/
def PowerOn.withRom (rom : List Byte) : PowerOn where
  glyphBytes := Vector.ofFn (fun k : Fin 80 => glyphs.getD k.val 0#8)
  memInit := fun _ => 0#8
  stkInit := Vector.replicate 16 0#16
  fbInit := Framebuffer.clear
  cfg := Config.params
  rom := rom
  inputs := []

end Sys2Proof.Machine
end

