-- ==== Sys2Proof/Safety.lean ====
section
/-! DEFINITION. The terms claims are stated in: the invariant of the machine, the halted and the finished
state, what a state transformer leaves unchanged, and the sprite of a draw as a set of pixels. -/

namespace Sys2Proof.Machine

/-! ### Safe, halted, finished -/

/-- The halted state (10_state.md R33): a failed run. -/
abbrev State.Halted (s : State) : Prop := s.fault ≠ none

/-- A safe state: not halted. -/
abbrev State.Safe (s : State) : Prop := s.fault = none

/-- The finished state (70_reset_and_hazards.md R210): running at a jump to itself. DESIGN CHOICE (the spec's
D19; log 35). Safe. -/
abbrev State.Finished (s : State) : Prop :=
  s.mode = .run ∧ s.fault = none ∧ s.pc.toNat + 1 ≤ 0xFFF ∧
    joinBytes (s.mem.read s.pc.toNat) (s.mem.read (s.pc.toNat + 1)) = 0x1000#16 ||| s.pc

/-! ### The invariant -/

/-- What a fault record says beside its halted core's `PC` (60_exceptions.md R171, R172, R174, R176, R178):
a fetch fault has no opcode and left `PC` at `ia`; a decode or execute fault left it at `ia + 2`. -/
def FaultRecord.precise (r : FaultRecord) (pc : Word) : Bool :=
  match r.opcode, r.kind, r.addr with
  | none, .outOfRangeAddress, some a => pc == r.ia && decide (0xFFF < a)
  | some op, .unknownOpcode, none => pc == r.ia + 2#16 && (decode op).isNone
  | some op, .outOfRangeAddress, some a => pc == r.ia + 2#16 && decide (0xFFF < a) && (decode op).isSome
  | some op, .stackOutOfRange, some p => pc == r.ia + 2#16 && decide (15 < p) && op == 0x00EE#16
  | _, _, _ => false

/-- The invariant of the machine: `MEM` is canonical, `CYC` is in `0..TICK_DIV-1` (R32), a halted core is in
`RUN` (the wait cannot fault, R164) and its record is precise. -/
abbrev State.Inv (s : State) : Prop :=
  s.mem.wf = true ∧ s.cyc < s.cfg.tickDiv ∧
    (s.fault.isSome = true → s.mode = .run) ∧
    (s.fault.all (fun r => r.precise s.pc)) = true

/-! ### What stays the same -/

/-- The parts of the state of 10_state.md R40, and the model's own fields. -/
inductive Part where
  | regs | index | pc | sp | stk | dt | st | mem | fb | mode | cyc | fault | refresh | cfg | inputs
  deriving DecidableEq, Repr

/-- A part is the same in two states, as its readers see it. -/
def Part.Same : Part → State → State → Prop
  | .regs, s, t => ∀ k, t.getV k = s.getV k
  | .index, s, t => t.i = s.i
  | .pc, s, t => t.pc = s.pc
  | .sp, s, t => t.sp = s.sp
  | .stk, s, t => ∀ k : Fin 16, t.stk[k] = s.stk[k]
  | .dt, s, t => t.dt = s.dt
  | .st, s, t => t.st = s.st
  | .mem, s, t => ∀ a, t.mem.read a = s.mem.read a
  | .fb, s, t => ∀ cx cy, t.pixel cx cy = s.pixel cx cy
  | .mode, s, t => t.mode = s.mode
  | .cyc, s, t => t.cyc = s.cyc
  | .fault, s, t => t.fault = s.fault
  | .refresh, s, t => t.refresh = s.refresh
  | .cfg, s, t => t.cfg = s.cfg
  | .inputs, s, t => t.inputs = s.inputs ∧ t.inputCount = s.inputCount

/-- From `s` to `t` nothing but the named parts may differ. -/
def ChangesOnly (parts : List Part) (s t : State) : Prop := ∀ p, p ∉ parts → p.Same s t

/-- Every register but the named ones is the same. -/
def RegsKept (changed : List RegIx) (s t : State) : Prop := ∀ k, k ∉ changed → t.getV k = s.getV k

/-- Every byte outside the `len` bytes from `a` is the same. -/
def MemKeptOutside (a len : Nat) (s t : State) : Prop :=
  ∀ c, ¬ (a ≤ c ∧ c < a + len) → t.mem.read c = s.mem.read c

/-! ### The sprite of a draw (43_display.md R152) -/

/-- The sprite column that lands on screen column `cx`. -/
def spriteCol (vx : Byte) (cx : Fin 64) : Nat := (cx.val + 64 - vx.toNat % 64) % 64

/-- The sprite row that lands on screen row `cy`. -/
def spriteRow (vy : Byte) (cy : Fin 32) : Nat := (cy.val + 32 - vy.toNat % 32) % 32

/-- The sprite bit drawn onto a pixel by an `n`-row draw at `(vx, vy)`; 0 where the sprite does not reach. -/
def State.spriteAt (s : State) (vx vy : Byte) (n : Nat) (cx : Fin 64) (cy : Fin 32) : Bool :=
  decide (spriteRow vy cy < n) && decide (spriteCol vx cx < 8) &&
    (s.mem.read (s.i.toNat + spriteRow vy cy)).getLsbD (7 - spriteCol vx cx)

end Sys2Proof.Machine
end

