-- ==== Sys2Proof/Certificates/Slice0/Obligations.lean ====
section
/-! DEFINITION. The statements for the provers, each from the rule of spec/ its docstring names. -/

namespace Sys2Proof.Claims

/-! The operand fields of a word as arithmetic, apart from the decoder's own extraction (30_encoding.md R81). -/

/-- `op[15:12]`. -/
def grp (op : Word) : Nat := op.toNat / 4096

/-- `op[11:0]`. -/
def nnn (op : Word) : BitVec 12 := BitVec.ofNat 12 op.toNat

/-- `op[7:0]`. -/
def kk (op : Word) : Byte := BitVec.ofNat 8 op.toNat

/-- `op[11:8]`. -/
def x (op : Word) : RegIx := Fin.ofNat 16 (op.toNat / 256)

/-- `op[7:4]`. -/
def y (op : Word) : RegIx := Fin.ofNat 16 (op.toNat / 16)

/-- `op[3:0]`. -/
def n (op : Word) : Nat := op.toNat % 16

/-- The bytes at `PC` form the word of `i`, and this cycle runs it: not halted, not waiting, `reset` not
asserted. -/
def AboutToRun (s : Machine.State) (i : Instr) : Prop :=
  s.input.reset = false ∧ s.fault = none ∧ s.mode = .run ∧ s.pc.toNat + 1 ≤ 0xFFF ∧
    decode (joinBytes (s.mem.read s.pc.toNat) (s.mem.read (s.pc.toNat + 1))) = some i

/-- The state the execute stage of this cycle starts from: strobe over, `PC` advanced. -/
def preState (s : Machine.State) : Machine.State := { s with refresh := false, pc := s.pc + 2#16 }

/-- The result and flag of a subtraction row (41_alu.md R128, R130) with flag condition `f` on the old values:
under `sequential` the difference reads `V[0xF]` after the flag write. -/
def SubtractsWithFlag (i : Instr) (vx vy : RegIx) (f : Nat → Nat → Bool) : Prop :=
  ∀ s : Machine.State, s.cfg.vfAlias ≠ .refuse →
    let a := (s.getV vx).toNat
    let b := (s.getV vy).toNat
    let flag := if f a b = true then 1 else 0
    let a' := if s.cfg.vfAlias = .sequential ∧ vx = VF then flag else a
    let b' := if s.cfg.vfAlias = .sequential ∧ vy = VF then flag else b
    ∃ t, Machine.exec i s = .next t ∧ (t.getV vx).toNat = (a' + 256 - b') % 256 ∧
      (vx ≠ VF → (t.getV VF).toNat = flag) ∧ Machine.RegsKept [vx, VF] s t ∧ Machine.ChangesOnly [.regs] s t

/-- The result and flag of a shift row (R129, R131): `out` and `res` on the old value; under `sequential` the
shift of `V[0xF]` reads the flag just written. -/
def ShiftsWithFlag (i : Instr) (vx : RegIx) (out res : Nat → Nat) : Prop :=
  ∀ s : Machine.State, s.cfg.vfAlias ≠ .refuse →
    let a := (s.getV vx).toNat
    let a' := if s.cfg.vfAlias = .sequential ∧ vx = VF then out a else a
    ∃ t, Machine.exec i s = .next t ∧ (t.getV vx).toNat = res a' ∧
      (vx ≠ VF → (t.getV VF).toNat = out a) ∧ Machine.RegsKept [vx, VF] s t ∧ Machine.ChangesOnly [.regs] s t

/-- From `s` to `t` one cycle is counted, and the timers and `refresh` are those of a cycle that writes no timer
(60_exceptions.md R184, R185): a tick every `TICK_DIV`-th cycle, else nothing but the count. -/
def CountsCycle (s t : Machine.State) : Prop :=
  (s.cyc + 1 = s.cfg.tickDiv →
    t.cyc = 0 ∧ t.dt.toNat = s.dt.toNat - 1 ∧ t.st.toNat = s.st.toNat - 1 ∧ t.refresh = true) ∧
  (s.cyc + 1 ≠ s.cfg.tickDiv → t.cyc = s.cyc + 1 ∧ t.dt = s.dt ∧ t.st = s.st ∧ t.refresh = false)

/-- `i` in `s` takes `OutOfRangeAddress` at the lowest offending address of the run from `I`, and nothing else
changes (20_memory.md R64, 60_exceptions.md R171, R178). -/
def TakesOutOfRange (i : Instr) (s : Machine.State) : Prop :=
  ∃ t, Machine.exec i s = .next t ∧
    t.fault = some ⟨.outOfRangeAddress, s.pc - 2#16, some (encode i), some (max s.i.toNat 0x1000)⟩ ∧
    Machine.ChangesOnly [.fault] s t

end Sys2Proof.Claims

open Sys2Proof Sys2Proof.Machine Sys2Proof.Claims

/-! ### Encoding -/

/-- Decode and encode agree on every instruction of the set (30_encoding.md R84, R86, R87). -/
def Obligations.DecodeOfEncode : Prop :=
  ∀ i : Instr, i.wellFormed = true → decode (encode i) = some i

/-- What a legal word decodes to is well formed and encodes to that word: each word has one meaning
(30_encoding.md R84, R89: the ignored `y` is kept). It rests on the spec's choices D3, since a looser decode would give
two words one instruction (log 13), and D25, by which `y` is ignored (log 26). -/
def Obligations.EncodeOfDecode : Prop :=
  ∀ (op : Word) (i : Instr), decode op = some i → i.wellFormed = true ∧ encode i = op

/-- Decode is the exact match against the 34 `(mask, match)` pairs of R87, of which at most one matches; the
strictness is the spec's own choice D3 (log 13). -/
def Obligations.DecodeIsExactMatchOnOpcodeMap : Prop :=
  (∀ (op : Word) (i : Instr), decode op = some i →
    ∃ row ∈ opcodeMap, row.mnemonic = i.mnemonic ∧ op &&& row.mask = row.pattern) ∧
  (∀ op : Word, decode op = none → ∀ row ∈ opcodeMap, op &&& row.mask ≠ row.pattern) ∧
  (∀ op : Word, ∀ r ∈ opcodeMap, ∀ q ∈ opcodeMap,
    op &&& r.mask = r.pattern → op &&& q.mask = q.pattern → r = q)

/-- The illegal words, group by group (30_encoding.md R88; the strictness is D3, log 13). -/
def Obligations.IllegalWordsByGroup : Prop :=
  ∀ op : Word, decode op = none ↔
    (grp op = 0x0 ∧ op.toNat ≠ 0x00E0 ∧ op.toNat ≠ 0x00EE) ∨
    (grp op = 0x5 ∧ n op ≠ 0) ∨
    (grp op = 0x8 ∧ n op ∈ [0x8, 0x9, 0xA, 0xB, 0xC, 0xD, 0xF]) ∨
    (grp op = 0x9 ∧ n op ≠ 0) ∨
    (grp op = 0xE ∧ (kk op).toNat ∉ [0x9E, 0xA1]) ∨
    (grp op = 0xF ∧ (kk op).toNat ∉ [0x07, 0x0A, 0x15, 0x18, 0x1E, 0x29, 0x33, 0x55, 0x65])

/-- The extraction rules of R81, by its masks and shifts. -/
def Obligations.FieldExtractionBitExact : Prop :=
  ∀ op : Word,
    (fieldGrp op).toNat = (op &&& 0xF000#16).toNat >>> 12 ∧
    (fieldNnn op).toNat = (op &&& 0x0FFF#16).toNat ∧
    (fieldKk op).toNat = (op &&& 0x00FF#16).toNat ∧
    (fieldX op).val = (op &&& 0x0F00#16).toNat >>> 8 ∧
    (fieldY op).val = (op &&& 0x00F0#16).toNat >>> 4 ∧
    (fieldN op).toNat = (op &&& 0x000F#16).toNat

/-- Words of every family written out from the encoding (95_test_vectors.md section 3, vectors E1 to E28); that
the illegal ones, 0x5AB1 and 0xE01E among them, are refused is the spec's choice D3 (log 13). -/
def Obligations.SpecWordsDecode : Prop :=
  decode 0x00E0#16 = some .cls ∧ decode 0x00EE#16 = some .ret ∧ decode 0x00EF#16 = none ∧
  decode 0x0000#16 = none ∧ decode 0x1FFF#16 = some (.jp 0xFFF#12) ∧ decode 0x2345#16 = some (.call 0x345#12) ∧
  decode 0x3AFF#16 = some (.seVxKk 10 0xFF#8) ∧ decode 0x5AB0#16 = some (.seVxVy 10 11) ∧
  decode 0x5AB1#16 = none ∧ decode 0x8AB4#16 = some (.addVxVy 10 11) ∧ decode 0x8AB8#16 = none ∧
  decode 0xA123#16 = some (.ldI 0x123#12) ∧ decode 0xD12F#16 = some (.drw 1 2 15) ∧
  decode 0xEFA1#16 = some (.sknp 15) ∧ decode 0xE01E#16 = none ∧ decode 0xF01E#16 = some (.addIVx 0) ∧
  decode 0xF165#16 = some (.ldVxMemI 1) ∧ decode 0xF175#16 = none

/-! ### Memory, fetch, cycle -/

/-- The byte accesses with their bounds check (20_memory.md R52, R53). -/
def Obligations.ByteAccessesAreBoundsChecked : Prop :=
  ∀ (s : State) (a : Nat) (b : Byte),
    (0xFFF < a → s.memRead a = .error a ∧ s.memWrite a b = .error a) ∧
    (a ≤ 0xFFF → s.memRead a = .ok (s.mem.read a) ∧
      ∃ t, s.memWrite a b = .ok t ∧ t.memRead a = .ok b ∧ MemKeptOutside a 1 s t ∧ ChangesOnly [.mem] s t)

/-- The fetch (30_encoding.md R82): bounds of both bytes, big-endian, a fetch fault changes no state and has no
opcode. -/
def Obligations.FetchIsBigEndianAndBounded : Prop :=
  ∀ s : State,
    (0xFFF < s.pc.toNat → s.fetch = .error s.pc.toNat) ∧
    (s.pc.toNat = 0xFFF → s.fetch = .error 0x1000) ∧
    (s.pc.toNat < 0xFFF → ∃ op, s.fetch = .ok op ∧
      op.toNat = 256 * (s.mem.read s.pc.toNat).toNat + (s.mem.read (s.pc.toNat + 1)).toNat) ∧
    (0xFFF ≤ s.pc.toNat → ∃ t r, engineStep s = .next t ∧ t.fault = some r ∧ r.kind = .outOfRangeAddress ∧
      r.opcode = none ∧ t.pc = s.pc ∧ ChangesOnly [.fault] s t)

/-- A step runs the instruction the bytes at `PC` decode to, from the advanced state, then counts the cycle and
uses up its inputs; a cycle that faulted does not count (10_state.md R39, 30_encoding.md R83, R94). That count and
tick come after the instruction is the spec's choice D9, D28 (log 11, 23), that a faulting cycle has none is D6 (log 16);
the list of inputs is the model's own (log 1). -/
def Obligations.StepRunsDecodedInstruction : Prop :=
  ∀ (s : State) (i : Instr), AboutToRun s i →
    (∀ t, exec i (preState s) = .next t → t.fault = none → step s = .next t.schedulerCount.consumeInput) ∧
    (∀ t, exec i (preState s) = .next t → t.fault ≠ none → step s = .next t.consumeInput) ∧
    (∀ r, exec i (preState s) = .refused r → step s = .refused r)

/-- Every step keeps the invariant: `MEM` canonical, `CYC` in range, a halted core in `RUN` with a precise
record (10_state.md R32, 20_memory.md R51, 60_exceptions.md R178; `CYC` and the record are the spec's choices D9
and D5, log 11, 15; the canonical form is the model's). -/
def Obligations.StepKeepsInvariant : Prop :=
  ∀ s t : State, s.Inv → step s = .next t → t.Inv

/-- The invariant holds at reset. -/
def Obligations.ResetMeetsInvariant : Prop := State.reset.Inv

/-- No step changes the parameters, and a step that answers a next state uses up exactly one cycle's inputs
(00_scope.md R7, 10_state.md R34; the list of inputs is the model's own, log 1, log 5). -/
def Obligations.StepKeepsParametersAndSamplesOnce : Prop :=
  ∀ s t : State, step s = .next t →
    t.cfg = s.cfg ∧ t.inputs = s.inputs.tail ∧ t.inputCount = s.inputCount + 1

/-- A fetch fault and an unknown opcode halt the core at once: the record; `PC` kept at `ia`, or left at `ia + 2`;
nothing else changed, no count, no tick (60_exceptions.md R171, R172, R177, R178; the record and the halt are the
spec's choices D5, D6, log 15, 16). -/
def Obligations.FetchAndDecodeFaultsHaltCore : Prop :=
  ∀ s : State, s.input.reset = false → s.fault = none → s.mode = .run →
    (0xFFF ≤ s.pc.toNat → ∃ t, step s = .next t ∧
      t.fault = some ⟨.outOfRangeAddress, s.pc, none, some (max s.pc.toNat 0x1000)⟩ ∧
      ChangesOnly [.fault, .refresh, .inputs] s t) ∧
    (s.pc.toNat < 0xFFF → ∀ op, op = joinBytes (s.mem.read s.pc.toNat) (s.mem.read (s.pc.toNat + 1)) →
      decode op = none → ∃ t, step s = .next t ∧
        t.fault = some ⟨.unknownOpcode, s.pc, some op, none⟩ ∧ t.pc = s.pc + 2#16 ∧
        ChangesOnly [.pc, .fault, .refresh, .inputs] s t)

/-- The halted core: without `reset` nothing changes, and with no input left it has no transition
(60_exceptions.md R177, 10_state.md R39; the spec's D6; how the two are told apart is the model's, log 3). -/
def Obligations.HaltedCoreIsFrozen : Prop :=
  ∀ (s : State) (r : FaultRecord), s.fault = some r → s.input.reset = false →
    (s.inputs = [] → step s = .fault (.halted r)) ∧
    (s.inputs ≠ [] → ∃ t, step s = .next t ∧ ChangesOnly [.refresh, .inputs] s t)

/-- The reset input, in any state (70_reset_and_hazards.md R201; `MODE`, `CYC`, `FAULT` are the spec's choice
D15, log 20). -/
def Obligations.ResetInputRestoresRegisters : Prop :=
  ∀ s : State, s.input.reset = true → ∃ t, step s = .next t ∧
    (∀ k, (t.getV k).toNat = 0) ∧ t.i.toNat = 0 ∧ t.dt.toNat = 0 ∧ t.st.toNat = 0 ∧ t.pc.toNat = 0x200 ∧
    t.sp.toNat = 0 ∧ t.mode = .run ∧ t.cyc = 0 ∧ t.fault = none ∧ t.refresh = false ∧
    Part.Same .mem s t ∧ Part.Same .stk s t ∧ Part.Same .fb s t ∧ t.cfg = s.cfg

/-- The end of a cycle (60_exceptions.md R184, R185): one decrement of each nonzero timer at every
`TICK_DIV`-th cycle, nothing counted in a faulting cycle. The spec's choices D6, D9, D10 (log 11, 16, 23). -/
def Obligations.EndOfCycleCountsAndTicks : Prop :=
  ∀ u : State,
    (u.fault = none → u.cyc + 1 = u.cfg.tickDiv →
      u.endCycle.cyc = 0 ∧ u.endCycle.dt.toNat = u.dt.toNat - 1 ∧ u.endCycle.st.toNat = u.st.toNat - 1 ∧
      u.endCycle.refresh = true) ∧
    (u.fault = none → u.cyc + 1 ≠ u.cfg.tickDiv →
      u.endCycle.cyc = u.cyc + 1 ∧ ChangesOnly [.cyc, .inputs] u u.endCycle) ∧
    (u.fault ≠ none → ChangesOnly [.inputs] u u.endCycle) ∧
    ChangesOnly [.dt, .st, .cyc, .refresh, .inputs] u u.endCycle

/-- In a ticking cycle the instruction acts first: `FX07` reads the value before the decrement, `FX15` and `FX18`
write the value the tick then decrements (60_exceptions.md R186; the spec's choice D28, log 23). -/
def Obligations.TickFollowsInstruction : Prop :=
  ∀ (s : State) (vx : RegIx), s.cyc + 1 = s.cfg.tickDiv →
    (AboutToRun s (.ldVxDt vx) → ∃ t, step s = .next t ∧ t.getV vx = s.dt ∧ t.dt.toNat = s.dt.toNat - 1) ∧
    (AboutToRun s (.ldDtVx vx) → ∃ t, step s = .next t ∧ t.dt.toNat = (s.getV vx).toNat - 1) ∧
    (AboutToRun s (.ldStVx vx) → ∃ t, step s = .next t ∧ t.st.toNat = (s.getV vx).toNat - 1 ∧
      (t.snd = true ↔ 1 < (s.getV vx).toNat))

/-- One poll of a pending key wait (44_keys_timers.md R164): no fetch; a key ends it; with a key or without, the cycle
counts, and ticks when a tick is due. The spec's choices D7, D8, and for the tick D9, D10 (log 11, 17, 18, 23). -/
def Obligations.KeyWaitPollsOncePerCycle : Prop :=
  ∀ (s : State) (vx : RegIx), s.input.reset = false → s.fault = none → s.mode = .waitKey vx →
    (s.input.key = none → ∃ t, step s = .next t ∧ CountsCycle s t ∧
      ChangesOnly [.dt, .st, .cyc, .refresh, .inputs] s t) ∧
    (∀ k, s.input.key = some k → ∃ t, step s = .next t ∧ CountsCycle s t ∧ (t.getV vx).toNat = k.toNat ∧
      t.mode = .run ∧ RegsKept [vx] s t ∧ ChangesOnly [.regs, .mode, .dt, .st, .cyc, .refresh, .inputs] s t)

/-! ### Control transfer -/

/-- `1NNN` (40_flow.md R102): any target; at 0xFFF the next fetch fails. -/
def Obligations.JumpSetsProgramCounter : Prop :=
  (∀ op : Word, grp op = 0x1 → decode op = some (.jp (nnn op))) ∧
  ∀ (a : BitVec 12) (s : State), ∃ t, exec (.jp a) s = .next t ∧ t.pc.toNat = a.toNat ∧
    (a.toNat = 0xFFF → t.fetch = .error 0x1000) ∧ ChangesOnly [.pc] s t

/-- `BNNN` (40_flow.md R108): the sum is exact, never reduced to 12 bits; above 0xFFE the next fetch fails. -/
def Obligations.JumpWithOffsetAddsV0 : Prop :=
  (∀ op : Word, grp op = 0xB → decode op = some (.jpV0 (nnn op))) ∧
  ∀ (a : BitVec 12) (s : State), ∃ t, exec (.jpV0 a) s = .next t ∧
    t.pc.toNat = a.toNat + (s.getV 0).toNat ∧
    (0xFFE < a.toNat + (s.getV 0).toNat → ∃ bad, 0xFFF < bad ∧ t.fetch = .error bad) ∧ ChangesOnly [.pc] s t

/-- `3XKK` and `4XKK`, exact complements (40_flow.md R104, R105, R109). -/
def Obligations.SkipsOnImmediate : Prop :=
  (∀ op : Word, grp op = 0x3 → decode op = some (.seVxKk (x op) (kk op))) ∧
  (∀ op : Word, grp op = 0x4 → decode op = some (.sneVxKk (x op) (kk op))) ∧
  ∀ (vx : RegIx) (b : Byte) (s : State),
    (∃ t, exec (.seVxKk vx b) s = .next t ∧
      t.pc.toNat = (s.pc.toNat + if (s.getV vx).toNat = b.toNat then 2 else 0) % 65536 ∧ ChangesOnly [.pc] s t) ∧
    (∃ t, exec (.sneVxKk vx b) s = .next t ∧
      t.pc.toNat = (s.pc.toNat + if (s.getV vx).toNat = b.toNat then 0 else 2) % 65536 ∧ ChangesOnly [.pc] s t)

/-- `5XY0` and `9XY0` (40_flow.md R106, R107). That other low nibbles are unknown is in `IllegalWordsByGroup`. -/
def Obligations.SkipsOnRegisters : Prop :=
  (∀ op : Word, grp op = 0x5 → decode op = if n op = 0 then some (.seVxVy (x op) (y op)) else none) ∧
  (∀ op : Word, grp op = 0x9 → decode op = if n op = 0 then some (.sneVxVy (x op) (y op)) else none) ∧
  ∀ (vx vy : RegIx) (s : State),
    (∃ t, exec (.seVxVy vx vy) s = .next t ∧
      t.pc.toNat = (s.pc.toNat + if (s.getV vx).toNat = (s.getV vy).toNat then 2 else 0) % 65536 ∧
      ChangesOnly [.pc] s t) ∧
    (∃ t, exec (.sneVxVy vx vy) s = .next t ∧
      t.pc.toNat = (s.pc.toNat + if (s.getV vx).toNat = (s.getV vy).toNat then 0 else 2) % 65536 ∧
      ChangesOnly [.pc] s t)

/-- `2NNN` (40_flow.md R103, 60_exceptions.md R175): the slot of the incremented `SP` gets the address of the next
instruction; at `SP >= 16` no slot is written and nothing faults. -/
def Obligations.CallPushesReturnAddress : Prop :=
  (∀ op : Word, grp op = 0x2 → decode op = some (.call (nnn op))) ∧
  ∀ (a : BitVec 12) (s : State), ∃ t, exec (.call a) s = .next t ∧
    t.sp.toNat = (s.sp.toNat + 1) % 256 ∧ t.pc.toNat = a.toNat ∧
    (∀ k : Fin 16, t.stk[k] = if k.val = (s.sp.toNat + 1) % 256 then s.pc else s.stk[k]) ∧
    ChangesOnly [.pc, .sp, .stk] s t

/-- `00EE` with `SP <= 15` (40_flow.md R101; the wrap of `SP` at 0 is the spec's choice D16, log 21). -/
def Obligations.ReturnPopsAddress : Prop :=
  ∀ (s : State) (h : s.sp.toNat < 16), ∃ t, exec .ret s = .next t ∧
    t.pc = s.stk[s.sp.toNat] ∧ t.sp.toNat = (s.sp.toNat + 255) % 256 ∧ ChangesOnly [.pc, .sp] s t

/-- `00EE` with `SP >= 16` takes `StackOutOfRange(SP)` before any write (40_flow.md R101, 60_exceptions.md R174; the
spec's choice D4, log 14). -/
def Obligations.ReturnOutsideStackFaults : Prop :=
  ∀ s : State, 16 ≤ s.sp.toNat → ∃ t, exec .ret s = .next t ∧
    t.fault = some ⟨.stackOutOfRange, s.pc - 2#16, some 0x00EE#16, some s.sp.toNat⟩ ∧ ChangesOnly [.fault] s t

/-- A call and its return (95_test_vectors.md S5): from a pre-call `SP` of at most 14, whatever runs in between and
leaves `SP` and `STK` as the call left them, the return comes back to the next instruction. -/
def Obligations.CallThenReturnComesBack : Prop :=
  ∀ (s : State) (a : BitVec 12), s.sp.toNat ≤ 14 → ∃ t, exec (.call a) s = .next t ∧
    ∀ u : State, u.sp = t.sp → u.stk = t.stk →
      ∃ w, exec .ret u = .next w ∧ w.pc = s.pc ∧ w.sp = s.sp

/-! ### Arithmetic and logic -/

/-- `6XKK` and `8XY0` (41_alu.md R121, R123). -/
def Obligations.LoadsWriteOneRegister : Prop :=
  (∀ op : Word, grp op = 0x6 → decode op = some (.ldVxKk (x op) (kk op))) ∧
  (∀ op : Word, grp op = 0x8 → n op = 0 → decode op = some (.ldVxVy (x op) (y op))) ∧
  ∀ s : State,
    (∀ vx b, ∃ t, exec (.ldVxKk vx b) s = .next t ∧ t.getV vx = b ∧ RegsKept [vx] s t ∧
      ChangesOnly [.regs] s t) ∧
    (∀ vx vy, ∃ t, exec (.ldVxVy vx vy) s = .next t ∧ t.getV vx = s.getV vy ∧ RegsKept [vx] s t ∧
      ChangesOnly [.regs] s t)

/-- `7XKK` (41_alu.md R122): no carry flag (the spec's choice D26, log 26). -/
def Obligations.AddImmediateWrapsWithoutFlag : Prop :=
  (∀ op : Word, grp op = 0x7 → decode op = some (.addVxKk (x op) (kk op))) ∧
  ∀ (vx : RegIx) (b : Byte) (s : State), ∃ t, exec (.addVxKk vx b) s = .next t ∧
    (t.getV vx).toNat = ((s.getV vx).toNat + b.toNat) % 256 ∧ RegsKept [vx] s t ∧ ChangesOnly [.regs] s t

/-- `8XY1`, `8XY2`, `8XY3`, bit by bit (41_alu.md R124 to R126); that `V[0xF]` is not written is the spec's choice
D26 (log 26). -/
def Obligations.LogicIsBitwise : Prop :=
  ∀ (vx vy : RegIx) (s : State),
    (∃ t, exec (.orVxVy vx vy) s = .next t ∧ RegsKept [vx] s t ∧ ChangesOnly [.regs] s t ∧
      ∀ j, (t.getV vx).getLsbD j = ((s.getV vx).getLsbD j || (s.getV vy).getLsbD j)) ∧
    (∃ t, exec (.andVxVy vx vy) s = .next t ∧ RegsKept [vx] s t ∧ ChangesOnly [.regs] s t ∧
      ∀ j, (t.getV vx).getLsbD j = ((s.getV vx).getLsbD j && (s.getV vy).getLsbD j)) ∧
    (∃ t, exec (.xorVxVy vx vy) s = .next t ∧ RegsKept [vx] s t ∧ ChangesOnly [.regs] s t ∧
      ∀ j, (t.getV vx).getLsbD j = xor ((s.getV vx).getLsbD j) ((s.getV vy).getLsbD j))

/-- `8XY4` (41_alu.md R127): sum and carry; at `x = 0xF` the result wins; the same under every policy. -/
def Obligations.AddSetsCarry : Prop :=
  (∀ op : Word, grp op = 0x8 → n op = 4 → decode op = some (.addVxVy (x op) (y op))) ∧
  ∀ (vx vy : RegIx) (s : State),
    let sum := (s.getV vx).toNat + (s.getV vy).toNat
    ∃ t, exec (.addVxVy vx vy) s = .next t ∧ (t.getV vx).toNat = sum % 256 ∧
      (vx ≠ VF → (t.getV VF).toNat = if sum > 255 then 1 else 0) ∧ RegsKept [vx, VF] s t ∧
      ChangesOnly [.regs] s t

/-- `8XY5` (41_alu.md R128): difference modulo 256, flag on strict `>`, with the outcome under `sequential`. -/
def Obligations.SubtractFlagsStrictlyGreater : Prop :=
  (∀ op : Word, grp op = 0x8 → n op = 5 → decode op = some (.subVxVy (x op) (y op))) ∧
  ∀ vx vy : RegIx, SubtractsWithFlag (.subVxVy vx vy) vx vy (fun a b => decide (a > b))

/-- `8XY7` (41_alu.md R130): `V[x] - V[y]` with the flag on strict `V[y] > V[x]`; under `sequential` an aliased form
reads `V[0xF]` as that flag (D1, D2, log 12). The spec follows the source's row by its choice D29 (log 24). -/
def Obligations.ReversedSubtractFlagsSmaller : Prop :=
  ∀ vx vy : RegIx, SubtractsWithFlag (.subnVxVy vx vy) vx vy (fun a b => decide (b > a))

/-- `8XY6` and `8XYE` (41_alu.md R129, R131): `V[x]` in place by one, any `y` (the spec's choice D25, log 26). -/
def Obligations.ShiftsByOneInPlace : Prop :=
  ∀ vx vy : RegIx,
    ShiftsWithFlag (.shrVx vx vy) vx (fun a => a % 2) (fun a => a / 2) ∧
    ShiftsWithFlag (.shlVx vx vy) vx (fun a => a / 128) (fun a => 2 * a % 256)

/-- Under `VF_ALIAS_POLICY = refuse` exactly the aliased forms have no meaning (41_alu.md R120; the spec's choice D1,
log 12, 34). -/
def Obligations.RefusePolicyStopsAliasedFormsOnly : Prop :=
  ∀ (s : State) (i : Instr), s.cfg.vfAlias = .refuse →
    (exec i s = .refused .vfAliased ↔
      (∃ vx vy, (i = .subVxVy vx vy ∨ i = .subnVxVy vx vy) ∧ ¬ (vx = VF ↔ vy = VF)) ∨
      (∃ vy, i = .shrVx VF vy ∨ i = .shlVx VF vy))

/-- The forms the policy does not concern behave the same under all three settings (41_alu.md R120: "`8XY4`, `DXYN`
and every other instruction behave the same under all three settings"; D1, log 12). -/
def Obligations.OtherFormsIgnoreAliasPolicy : Prop :=
  ∀ (s : State) (i : Instr) (p : VfAliasPolicy),
    (∀ vx vy, i = .subVxVy vx vy ∨ i = .subnVxVy vx vy → (vx = VF ↔ vy = VF)) →
    (∀ vx vy, i = .shrVx vx vy ∨ i = .shlVx vx vy → vx ≠ VF) →
    ∃ t, exec i { s with cfg := { s.cfg with vfAlias := .operandsFirst } } = .next t ∧
      exec i { s with cfg := { s.cfg with vfAlias := p } } =
        .next { t with cfg := { s.cfg with vfAlias := p } }

/-- `CXKK` (41_alu.md R132): the masked override, or the masked byte of this cycle's input, any byte (the spec's choice
D14; the free value of log 1). -/
def Obligations.RandomByteIsMasked : Prop :=
  ∀ (vx : RegIx) (b : Byte) (s : State), ∃ t, exec (.rnd vx b) s = .next t ∧ RegsKept [vx] s t ∧
    ChangesOnly [.regs] s t ∧
    (∀ o j, s.cfg.rngOverride = some o → (t.getV vx).getLsbD j = (o.getLsbD j && b.getLsbD j)) ∧
    (∀ j, s.cfg.rngOverride = none → (t.getV vx).getLsbD j = (s.input.rnd.getLsbD j && b.getLsbD j))

/-! ### Index register, loads and stores -/

/-- `ANNN` (42_index_memory.md R141). -/
def Obligations.LoadIndexImmediate : Prop :=
  (∀ op : Word, grp op = 0xA → decode op = some (.ldI (nnn op))) ∧
  ∀ (a : BitVec 12) (s : State), ∃ t, exec (.ldI a) s = .next t ∧ t.i.toNat = a.toNat ∧
    ChangesOnly [.index] s t

/-- `FX1E` and `FX29` (42_index_memory.md R142, R143): modulo 65536 without a flag; five times the whole byte (the
spec's choices D23, D26, log 26). -/
def Obligations.IndexArithmetic : Prop :=
  ∀ (vx : RegIx) (s : State),
    (∃ t, exec (.addIVx vx) s = .next t ∧ t.i.toNat = (s.i.toNat + (s.getV vx).toNat) % 65536 ∧
      ChangesOnly [.index] s t) ∧
    (∃ t, exec (.ldFVx vx) s = .next t ∧ t.i.toNat = (s.getV vx).toNat * 5 ∧ ChangesOnly [.index] s t)

/-- `FX33` in range (42_index_memory.md R144): three decimal digits of the register, no other byte;
that `I` is kept is the spec's choice D24 (log 26). -/
def Obligations.StoresDecimalDigits : Prop :=
  ∀ (vx : RegIx) (s : State), s.i.toNat + 2 ≤ 0xFFF → ∃ t, exec (.ldBVx vx) s = .next t ∧
    100 * (t.mem.read s.i.toNat).toNat + 10 * (t.mem.read (s.i.toNat + 1)).toNat +
      (t.mem.read (s.i.toNat + 2)).toNat = (s.getV vx).toNat ∧
    (t.mem.read (s.i.toNat + 1)).toNat < 10 ∧ (t.mem.read (s.i.toNat + 2)).toNat < 10 ∧
    MemKeptOutside s.i.toNat 3 s t ∧ ChangesOnly [.mem] s t

/-- `FX55` in range (42_index_memory.md R145); that `I` is kept is the spec's choice D24 (log 26). -/
def Obligations.StoresRegisterRange : Prop :=
  ∀ (vx : RegIx) (s : State), s.i.toNat + vx.val ≤ 0xFFF → ∃ t, exec (.ldMemIVx vx) s = .next t ∧
    (∀ k ≤ vx, t.mem.read (s.i.toNat + k.val) = s.getV k) ∧
    MemKeptOutside s.i.toNat (vx.val + 1) s t ∧ ChangesOnly [.mem] s t

/-- `FX65` in range (42_index_memory.md R146); that `I` is kept is D24 (log 26). -/
def Obligations.LoadsRegisterRange : Prop :=
  ∀ (vx : RegIx) (s : State), s.i.toNat + vx.val ≤ 0xFFF → ∃ t, exec (.ldVxMemI vx) s = .next t ∧
    (∀ k, t.getV k = if k ≤ vx then s.mem.read (s.i.toNat + k.val) else s.getV k) ∧ ChangesOnly [.regs] s t

/-- The round trip of 95_test_vectors.md S4: whatever happens to the registers in between, a load of the range just
stored gives the stored values back (it rests on D24, log 26). -/
def Obligations.StoreThenLoadRestoresRegisters : Prop :=
  ∀ (vx : RegIx) (s : State), s.i.toNat + vx.val ≤ 0xFFF → ∃ t, exec (.ldMemIVx vx) s = .next t ∧
    ∀ u : State, u.i = t.i → Part.Same .mem t u →
      ∃ w, exec (.ldVxMemI vx) u = .next w ∧ ∀ k ≤ vx, w.getV k = s.getV k

/-- The four instructions that reach `MEM` through `I` fault out of range and write nothing (20_memory.md R64,
60_exceptions.md R171; the reported address is the spec's choice D27, the record D5, log 22, 15). -/
def Obligations.OutOfRangeAccessWritesNothing : Prop :=
  ∀ s : State,
    (∀ vx, 0xFFF < s.i.toNat + 2 → TakesOutOfRange (.ldBVx vx) s) ∧
    (∀ vx : RegIx, 0xFFF < s.i.toNat + vx.val → TakesOutOfRange (.ldMemIVx vx) s) ∧
    (∀ vx : RegIx, 0xFFF < s.i.toNat + vx.val → TakesOutOfRange (.ldVxMemI vx) s) ∧
    (∀ vx vy rows, 0 < rows → 0xFFF < s.i.toNat + rows - 1 → TakesOutOfRange (.drw vx vy rows) s)

/-- The all-or-nothing check names the lowest effective address above 0xFFF (20_memory.md R63, R64; D27, log 22). -/
def Obligations.ReportedAddressIsLowest : Prop :=
  ∀ a len bad : Nat, rangeFault a len = some bad ↔
    ∃ k < len, bad = a + k ∧ 0xFFF < a + k ∧ ∀ j < k, a + j ≤ 0xFFF

/-- A store into the instruction stream is seen by the very next fetch (20_memory.md R69; the spec's choice D31,
log 25). -/
def Obligations.StoreIsSeenByNextFetch : Prop :=
  ∀ (vx : RegIx) (s : State), s.i = s.pc → 1 ≤ vx.val → s.i.toNat + vx.val ≤ 0xFFF →
    ∃ t, exec (.ldMemIVx vx) s = .next t ∧ t.fetch = .ok (joinBytes (s.getV 0) (s.getV 1))

/-! ### Display -/

/-- `00E0` (43_display.md R151). -/
def Obligations.ClearScreenClearsEveryPixel : Prop :=
  (∀ op : Word, op.toNat = 0x00E0 → decode op = some .cls) ∧
  ∀ s : State, ∃ t, exec .cls s = .next t ∧ (∀ cx cy, t.pixel cx cy = false) ∧ ChangesOnly [.fb] s t

/-- `DXYN` in range (43_display.md R152, 20_memory.md R62): each pixel is XORed with its sprite bit, coordinates
wrap, the flag register says whether a pixel went from set to clear, and nothing else changes; `n = 0` draws
nothing. Coordinates read before the flag is written are D1, that `I` is kept is D24 (log 12, 26). -/
def Obligations.DrawXorsSpriteOntoScreen : Prop :=
  ∀ (vx vy : RegIx) (rows : Nat) (s : State), (Instr.drw vx vy rows).wellFormed = true →
    (rows = 0 ∨ s.i.toNat + rows - 1 ≤ 0xFFF) →
    ∃ t, exec (.drw vx vy rows) s = .next t ∧
      (∀ cx cy, t.pixel cx cy = xor (s.pixel cx cy) (s.spriteAt (s.getV vx) (s.getV vy) rows cx cy)) ∧
      ((t.getV VF).toNat = 1 ∨ (t.getV VF).toNat = 0) ∧
      ((t.getV VF).toNat = 1 ↔ ∃ cx cy, s.pixel cx cy = true ∧ t.pixel cx cy = false) ∧
      RegsKept [VF] s t ∧ ChangesOnly [.regs, .fb] s t

/-- A pixel collides exactly when its old value is 1 and its sprite bit is 1; a sprite bit 0 changes nothing, a
sprite bit 1 sets a clear pixel; the flag is the OR over the operation (43_display.md R153). -/
def Obligations.CollisionIsSetBitOnSetPixel : Prop :=
  ∀ (vx vy : RegIx) (rows : Nat) (s : State), (Instr.drw vx vy rows).wellFormed = true →
    (rows = 0 ∨ s.i.toNat + rows - 1 ≤ 0xFFF) →
    let bit := s.spriteAt (s.getV vx) (s.getV vy) rows
    ∃ t, exec (.drw vx vy rows) s = .next t ∧
      (∀ cx cy, (s.pixel cx cy = true ∧ t.pixel cx cy = false) ↔ (s.pixel cx cy = true ∧ bit cx cy = true)) ∧
      (∀ cx cy, bit cx cy = false → t.pixel cx cy = s.pixel cx cy) ∧
      (∀ cx cy, bit cx cy = true → s.pixel cx cy = false → t.pixel cx cy = true) ∧
      ((∃ cx cy, s.pixel cx cy = true ∧ bit cx cy = true) → (t.getV VF).toNat = 1) ∧
      ((∀ cx cy, ¬ (s.pixel cx cy = true ∧ bit cx cy = true)) → (t.getV VF).toNat = 0)

/-- A second draw of the same sprite at the same place restores every pixel; over a clear place, with some set bit, it
collides (95_test_vectors.md S8). -/
def Obligations.DrawTwiceCancels : Prop :=
  ∀ (vx vy : RegIx) (rows : Nat) (s : State), (Instr.drw vx vy rows).wellFormed = true → vx ≠ VF → vy ≠ VF →
    (rows = 0 ∨ s.i.toNat + rows - 1 ≤ 0xFFF) →
    ∃ t, exec (.drw vx vy rows) s = .next t ∧
      ∀ u : State, u.i = t.i → Part.Same .mem t u → Part.Same .fb t u → Part.Same .regs t u →
        ∃ w, exec (.drw vx vy rows) u = .next w ∧ Part.Same .fb s w ∧
          ((∀ cx cy, s.spriteAt (s.getV vx) (s.getV vy) rows cx cy = true → s.pixel cx cy = false) →
            (∃ cx cy, s.spriteAt (s.getV vx) (s.getV vy) rows cx cy = true) → (w.getV VF).toNat = 1)

/-! ### Keys and timers -/

/-- `EX9E` and `EXA1`, exact complements (44_keys_timers.md R161, R162): the key held in this cycle against the whole
register. -/
def Obligations.KeySkipsCompareHeldKey : Prop :=
  (∀ op : Word, grp op = 0xE → (kk op).toNat = 0x9E → decode op = some (.skp (x op))) ∧
  (∀ op : Word, grp op = 0xE → (kk op).toNat = 0xA1 → decode op = some (.sknp (x op))) ∧
  ∀ (vx : RegIx) (s : State),
    let held : Prop := ∃ k, s.input.key = some k ∧ k.toNat = (s.getV vx).toNat
    (∃ t, exec (.skp vx) s = .next t ∧ ChangesOnly [.pc] s t ∧
      (held → t.pc.toNat = (s.pc.toNat + 2) % 65536) ∧ (¬ held → t.pc = s.pc)) ∧
    (∃ t, exec (.sknp vx) s = .next t ∧ ChangesOnly [.pc] s t ∧
      (¬ held → t.pc.toNat = (s.pc.toNat + 2) % 65536) ∧ (held → t.pc = s.pc))

/-- `FX07`, `FX15`, `FX18` (44_keys_timers.md R163, R165, R166), the execute stage alone. -/
def Obligations.TimerMoves : Prop :=
  ∀ (vx : RegIx) (s : State),
    (∃ t, exec (.ldVxDt vx) s = .next t ∧ t.getV vx = s.dt ∧ RegsKept [vx] s t ∧ ChangesOnly [.regs] s t) ∧
    (∃ t, exec (.ldDtVx vx) s = .next t ∧ t.dt = s.getV vx ∧ ChangesOnly [.dt] s t) ∧
    (∃ t, exec (.ldStVx vx) s = .next t ∧ t.st = s.getV vx ∧ ChangesOnly [.st] s t ∧
      (t.snd = true ↔ (s.getV vx).toNat ≠ 0))

/-- `FX0A` (44_keys_timers.md R164): with a key held it completes at once, else the core waits, `PC` past the
instruction. Level-sensitive by the spec's choice D7 (log 17). -/
def Obligations.KeyWaitCompletesOrSuspends : Prop :=
  ∀ (vx : RegIx) (s : State), ∃ t, exec (.ldVxK vx) s = .next t ∧ RegsKept [vx] s t ∧
    (∀ k, s.input.key = some k → (t.getV vx).toNat = k.toNat ∧ ChangesOnly [.regs] s t) ∧
    (s.input.key = none → t.mode = .waitKey vx ∧ ChangesOnly [.mode] s t)

/-! ### Whole-machine rules -/

/-- Who writes `V[0xF]` (10_state.md R21): the six flag writers, or an instruction that names it as its destination;
and a flag is 0 or 1. That other rows leave it is the spec's choice D26 (log 26). -/
def Obligations.FlagRegisterHasSixFlagWriters : Prop :=
  ∀ (i : Instr) (s t : State), exec i s = .next t →
    (t.getV VF ≠ s.getV VF →
      (∃ vx vy, i = .addVxVy vx vy ∨ i = .subVxVy vx vy ∨ i = .shrVx vx vy ∨ i = .subnVxVy vx vy ∨
        i = .shlVx vx vy ∨ ∃ rows, i = .drw vx vy rows) ∨
      (∃ b, i = .ldVxKk VF b ∨ i = .addVxKk VF b ∨ i = .rnd VF b) ∨
      (∃ vy, i = .ldVxVy VF vy ∨ i = .orVxVy VF vy ∨ i = .andVxVy VF vy ∨ i = .xorVxVy VF vy) ∨
      i = .ldVxDt VF ∨ i = .ldVxK VF ∨ i = .ldVxMemI VF) ∧
    (∀ vx vy, vx ≠ VF → (i = .addVxVy vx vy ∨ i = .subVxVy vx vy ∨ i = .shrVx vx vy ∨ i = .subnVxVy vx vy ∨
        i = .shlVx vx vy) → t.getV VF = 0#8 ∨ t.getV VF = 1#8)

/-- Who writes the three memories (20_memory.md R50, 42_index_memory.md R147, 43_display.md R150, 10_state.md R28). -/
def Obligations.MemorySpacesHaveTheirWriters : Prop :=
  ∀ (i : Instr) (s t : State), exec i s = .next t →
    (¬ Part.Same .mem s t → ∃ vx, i = .ldBVx vx ∨ i = .ldMemIVx vx) ∧
    (¬ Part.Same .fb s t → i = .cls ∨ ∃ vx vy rows, i = .drw vx vy rows) ∧
    (¬ Part.Same .stk s t → ∃ a, i = .call a)

/-- Who writes the special registers, `MODE` and `FAULT` (10_state.md R22, R24 to R26, R31, R33); that the
accesses keep `I` is the spec's choice D24 (log 26). -/
def Obligations.SpecialRegistersHaveTheirWriters : Prop :=
  ∀ (i : Instr) (s t : State), exec i s = .next t →
    (t.i ≠ s.i → (∃ a, i = .ldI a) ∨ ∃ vx, i = .addIVx vx ∨ i = .ldFVx vx) ∧
    (t.sp ≠ s.sp → i = .ret ∨ ∃ a, i = .call a) ∧
    (t.dt ≠ s.dt → ∃ vx, i = .ldDtVx vx) ∧
    (t.st ≠ s.st → ∃ vx, i = .ldStVx vx) ∧
    (t.mode ≠ s.mode → ∃ vx, i = .ldVxK vx) ∧
    (t.fault ≠ s.fault → i = .ret ∨ (∃ vx, i = .ldBVx vx ∨ i = .ldMemIVx vx ∨ i = .ldVxMemI vx) ∨
      ∃ vx vy rows, i = .drw vx vy rows)

/-- Faults are precise (60_exceptions.md R178): an instruction that takes a fault changes nothing else, and its
record names it. The record is the spec's choice D5 (log 4, 15). -/
def Obligations.FaultingInstructionChangesNothingElse : Prop :=
  ∀ (i : Instr) (s t : State), exec i s = .next t → t.fault ≠ s.fault →
    ChangesOnly [.fault] s t ∧
    ∃ r, t.fault = some r ∧ r.ia + 2#16 = s.pc ∧ r.opcode = some (encode i) ∧
      (r.kind = .outOfRangeAddress ∨ (r.kind = .stackOutOfRange ∧ i = .ret))

/-- Under the two policies that give every form a meaning, every instruction answers a next state in every state: that
of its effect, or that of its fault entry (00_scope.md R12: "There is no refusal outcome at this level"). That a fault
is entered by a next state is log 4; what `refuse` stops is D1 (log 34). -/
def Obligations.EveryInstructionAnswersNextState : Prop :=
  ∀ (i : Instr) (s : State), s.cfg.vfAlias ≠ .refuse → ∃ t, exec i s = .next t

/-- A finished program stays finished, and only the timers and the counters go on (70_reset_and_hazards.md R210; the
spec's choice D19, log 35). -/
def Obligations.FinishedProgramStaysFinished : Prop :=
  ∀ s : State, s.Finished → s.input.reset = false →
    ∃ t, step s = .next t ∧ t.Finished ∧ ChangesOnly [.dt, .st, .cyc, .refresh, .inputs] s t

/-! ### Power-on -/

/-- Power-on (70_reset_and_hazards.md R200, 20_memory.md R65, 60_exceptions.md R173): with a ROM that fits, every cell of
`MEM` and every register; with a longer one the run does not start. The order and the initial contents are the
spec's choices D11, D12, D22 (log 7, 8, 28), here for every value of the parameters. -/
def Obligations.PowerOnLaysOutMemory : Prop :=
  ∀ p : PowerOn,
    (3584 < p.rom.length → powerOn p = .fault (.loadFailed .romTooLarge)) ∧
    (p.rom.length ≤ 3584 → ∃ s, powerOn p = .next s ∧
      (∀ k : Fin 80, s.mem.read k.val = p.glyphBytes[k]) ∧
      (∀ a, 0x050 ≤ a → a < 0x200 → s.mem.read a = p.memInit a) ∧
      (∀ k (h : k < p.rom.length), s.mem.read (0x200 + k) = p.rom[k]) ∧
      (∀ a, 0x200 + p.rom.length ≤ a → a ≤ 0xFFF → s.mem.read a = p.memInit a) ∧
      s.mem.wf = true ∧ s.stk = p.stkInit ∧ s.fb = p.fbInit ∧ s.cfg = p.cfg ∧
      (∀ k, s.getV k = 0#8) ∧ s.i = 0#16 ∧ s.pc = 0x200#16 ∧ s.sp = 0#8 ∧ s.dt = 0#8 ∧ s.st = 0#8 ∧
      s.mode = .run ∧ s.cyc = 0 ∧ s.fault = none)

/-- `State.reset` is power-on with every parameter at its default and no ROM (10_state.md R37; the defaults are the
spec's choices, log 6 to 11). -/
def Obligations.ResetIsPowerOnWithDefaults : Prop :=
  powerOn (PowerOn.withRom []) = .next State.reset
end

