-- ==== Sys2Proof/Laws/State.lean ====
section
/-! SUPPORT. One lemma per field per update, each true by rfl, so that no later proof unfolds a record update;
then reading a register after an update. -/

namespace Sys2Proof.Machine

/-! ### `setV` -/

@[simp] theorem State.setV_v (s : State) (x : RegIx) (b : Byte) :
    (s.setV x b).v = s.v.set x b := rfl
@[simp] theorem State.setV_i (s : State) (x : RegIx) (b : Byte) :
    (s.setV x b).i = s.i := rfl
@[simp] theorem State.setV_pc (s : State) (x : RegIx) (b : Byte) :
    (s.setV x b).pc = s.pc := rfl
@[simp] theorem State.setV_sp (s : State) (x : RegIx) (b : Byte) :
    (s.setV x b).sp = s.sp := rfl
@[simp] theorem State.setV_dt (s : State) (x : RegIx) (b : Byte) :
    (s.setV x b).dt = s.dt := rfl
@[simp] theorem State.setV_st (s : State) (x : RegIx) (b : Byte) :
    (s.setV x b).st = s.st := rfl
@[simp] theorem State.setV_mem (s : State) (x : RegIx) (b : Byte) :
    (s.setV x b).mem = s.mem := rfl
@[simp] theorem State.setV_stk (s : State) (x : RegIx) (b : Byte) :
    (s.setV x b).stk = s.stk := rfl
@[simp] theorem State.setV_fb (s : State) (x : RegIx) (b : Byte) :
    (s.setV x b).fb = s.fb := rfl
@[simp] theorem State.setV_mode (s : State) (x : RegIx) (b : Byte) :
    (s.setV x b).mode = s.mode := rfl
@[simp] theorem State.setV_cyc (s : State) (x : RegIx) (b : Byte) :
    (s.setV x b).cyc = s.cyc := rfl
@[simp] theorem State.setV_fault (s : State) (x : RegIx) (b : Byte) :
    (s.setV x b).fault = s.fault := rfl
@[simp] theorem State.setV_refresh (s : State) (x : RegIx) (b : Byte) :
    (s.setV x b).refresh = s.refresh := rfl
@[simp] theorem State.setV_cfg (s : State) (x : RegIx) (b : Byte) :
    (s.setV x b).cfg = s.cfg := rfl
@[simp] theorem State.setV_inputs (s : State) (x : RegIx) (b : Byte) :
    (s.setV x b).inputs = s.inputs := rfl
@[simp] theorem State.setV_inputCount (s : State) (x : RegIx) (b : Byte) :
    (s.setV x b).inputCount = s.inputCount := rfl

/-! ### `setI` -/

@[simp] theorem State.setI_v (s : State) (w : Word) :
    (s.setI w).v = s.v := rfl
@[simp] theorem State.setI_i (s : State) (w : Word) :
    (s.setI w).i = w := rfl
@[simp] theorem State.setI_pc (s : State) (w : Word) :
    (s.setI w).pc = s.pc := rfl
@[simp] theorem State.setI_sp (s : State) (w : Word) :
    (s.setI w).sp = s.sp := rfl
@[simp] theorem State.setI_dt (s : State) (w : Word) :
    (s.setI w).dt = s.dt := rfl
@[simp] theorem State.setI_st (s : State) (w : Word) :
    (s.setI w).st = s.st := rfl
@[simp] theorem State.setI_mem (s : State) (w : Word) :
    (s.setI w).mem = s.mem := rfl
@[simp] theorem State.setI_stk (s : State) (w : Word) :
    (s.setI w).stk = s.stk := rfl
@[simp] theorem State.setI_fb (s : State) (w : Word) :
    (s.setI w).fb = s.fb := rfl
@[simp] theorem State.setI_mode (s : State) (w : Word) :
    (s.setI w).mode = s.mode := rfl
@[simp] theorem State.setI_cyc (s : State) (w : Word) :
    (s.setI w).cyc = s.cyc := rfl
@[simp] theorem State.setI_fault (s : State) (w : Word) :
    (s.setI w).fault = s.fault := rfl
@[simp] theorem State.setI_refresh (s : State) (w : Word) :
    (s.setI w).refresh = s.refresh := rfl
@[simp] theorem State.setI_cfg (s : State) (w : Word) :
    (s.setI w).cfg = s.cfg := rfl
@[simp] theorem State.setI_inputs (s : State) (w : Word) :
    (s.setI w).inputs = s.inputs := rfl
@[simp] theorem State.setI_inputCount (s : State) (w : Word) :
    (s.setI w).inputCount = s.inputCount := rfl

/-! ### `setPc` -/

@[simp] theorem State.setPc_v (s : State) (w : Word) :
    (s.setPc w).v = s.v := rfl
@[simp] theorem State.setPc_i (s : State) (w : Word) :
    (s.setPc w).i = s.i := rfl
@[simp] theorem State.setPc_pc (s : State) (w : Word) :
    (s.setPc w).pc = w := rfl
@[simp] theorem State.setPc_sp (s : State) (w : Word) :
    (s.setPc w).sp = s.sp := rfl
@[simp] theorem State.setPc_dt (s : State) (w : Word) :
    (s.setPc w).dt = s.dt := rfl
@[simp] theorem State.setPc_st (s : State) (w : Word) :
    (s.setPc w).st = s.st := rfl
@[simp] theorem State.setPc_mem (s : State) (w : Word) :
    (s.setPc w).mem = s.mem := rfl
@[simp] theorem State.setPc_stk (s : State) (w : Word) :
    (s.setPc w).stk = s.stk := rfl
@[simp] theorem State.setPc_fb (s : State) (w : Word) :
    (s.setPc w).fb = s.fb := rfl
@[simp] theorem State.setPc_mode (s : State) (w : Word) :
    (s.setPc w).mode = s.mode := rfl
@[simp] theorem State.setPc_cyc (s : State) (w : Word) :
    (s.setPc w).cyc = s.cyc := rfl
@[simp] theorem State.setPc_fault (s : State) (w : Word) :
    (s.setPc w).fault = s.fault := rfl
@[simp] theorem State.setPc_refresh (s : State) (w : Word) :
    (s.setPc w).refresh = s.refresh := rfl
@[simp] theorem State.setPc_cfg (s : State) (w : Word) :
    (s.setPc w).cfg = s.cfg := rfl
@[simp] theorem State.setPc_inputs (s : State) (w : Word) :
    (s.setPc w).inputs = s.inputs := rfl
@[simp] theorem State.setPc_inputCount (s : State) (w : Word) :
    (s.setPc w).inputCount = s.inputCount := rfl

/-! ### `setSp` -/

@[simp] theorem State.setSp_v (s : State) (b : Byte) :
    (s.setSp b).v = s.v := rfl
@[simp] theorem State.setSp_i (s : State) (b : Byte) :
    (s.setSp b).i = s.i := rfl
@[simp] theorem State.setSp_pc (s : State) (b : Byte) :
    (s.setSp b).pc = s.pc := rfl
@[simp] theorem State.setSp_sp (s : State) (b : Byte) :
    (s.setSp b).sp = b := rfl
@[simp] theorem State.setSp_dt (s : State) (b : Byte) :
    (s.setSp b).dt = s.dt := rfl
@[simp] theorem State.setSp_st (s : State) (b : Byte) :
    (s.setSp b).st = s.st := rfl
@[simp] theorem State.setSp_mem (s : State) (b : Byte) :
    (s.setSp b).mem = s.mem := rfl
@[simp] theorem State.setSp_stk (s : State) (b : Byte) :
    (s.setSp b).stk = s.stk := rfl
@[simp] theorem State.setSp_fb (s : State) (b : Byte) :
    (s.setSp b).fb = s.fb := rfl
@[simp] theorem State.setSp_mode (s : State) (b : Byte) :
    (s.setSp b).mode = s.mode := rfl
@[simp] theorem State.setSp_cyc (s : State) (b : Byte) :
    (s.setSp b).cyc = s.cyc := rfl
@[simp] theorem State.setSp_fault (s : State) (b : Byte) :
    (s.setSp b).fault = s.fault := rfl
@[simp] theorem State.setSp_refresh (s : State) (b : Byte) :
    (s.setSp b).refresh = s.refresh := rfl
@[simp] theorem State.setSp_cfg (s : State) (b : Byte) :
    (s.setSp b).cfg = s.cfg := rfl
@[simp] theorem State.setSp_inputs (s : State) (b : Byte) :
    (s.setSp b).inputs = s.inputs := rfl
@[simp] theorem State.setSp_inputCount (s : State) (b : Byte) :
    (s.setSp b).inputCount = s.inputCount := rfl

/-! ### `setDt` -/

@[simp] theorem State.setDt_v (s : State) (b : Byte) :
    (s.setDt b).v = s.v := rfl
@[simp] theorem State.setDt_i (s : State) (b : Byte) :
    (s.setDt b).i = s.i := rfl
@[simp] theorem State.setDt_pc (s : State) (b : Byte) :
    (s.setDt b).pc = s.pc := rfl
@[simp] theorem State.setDt_sp (s : State) (b : Byte) :
    (s.setDt b).sp = s.sp := rfl
@[simp] theorem State.setDt_dt (s : State) (b : Byte) :
    (s.setDt b).dt = b := rfl
@[simp] theorem State.setDt_st (s : State) (b : Byte) :
    (s.setDt b).st = s.st := rfl
@[simp] theorem State.setDt_mem (s : State) (b : Byte) :
    (s.setDt b).mem = s.mem := rfl
@[simp] theorem State.setDt_stk (s : State) (b : Byte) :
    (s.setDt b).stk = s.stk := rfl
@[simp] theorem State.setDt_fb (s : State) (b : Byte) :
    (s.setDt b).fb = s.fb := rfl
@[simp] theorem State.setDt_mode (s : State) (b : Byte) :
    (s.setDt b).mode = s.mode := rfl
@[simp] theorem State.setDt_cyc (s : State) (b : Byte) :
    (s.setDt b).cyc = s.cyc := rfl
@[simp] theorem State.setDt_fault (s : State) (b : Byte) :
    (s.setDt b).fault = s.fault := rfl
@[simp] theorem State.setDt_refresh (s : State) (b : Byte) :
    (s.setDt b).refresh = s.refresh := rfl
@[simp] theorem State.setDt_cfg (s : State) (b : Byte) :
    (s.setDt b).cfg = s.cfg := rfl
@[simp] theorem State.setDt_inputs (s : State) (b : Byte) :
    (s.setDt b).inputs = s.inputs := rfl
@[simp] theorem State.setDt_inputCount (s : State) (b : Byte) :
    (s.setDt b).inputCount = s.inputCount := rfl

/-! ### `setSt` -/

@[simp] theorem State.setSt_v (s : State) (b : Byte) :
    (s.setSt b).v = s.v := rfl
@[simp] theorem State.setSt_i (s : State) (b : Byte) :
    (s.setSt b).i = s.i := rfl
@[simp] theorem State.setSt_pc (s : State) (b : Byte) :
    (s.setSt b).pc = s.pc := rfl
@[simp] theorem State.setSt_sp (s : State) (b : Byte) :
    (s.setSt b).sp = s.sp := rfl
@[simp] theorem State.setSt_dt (s : State) (b : Byte) :
    (s.setSt b).dt = s.dt := rfl
@[simp] theorem State.setSt_st (s : State) (b : Byte) :
    (s.setSt b).st = b := rfl
@[simp] theorem State.setSt_mem (s : State) (b : Byte) :
    (s.setSt b).mem = s.mem := rfl
@[simp] theorem State.setSt_stk (s : State) (b : Byte) :
    (s.setSt b).stk = s.stk := rfl
@[simp] theorem State.setSt_fb (s : State) (b : Byte) :
    (s.setSt b).fb = s.fb := rfl
@[simp] theorem State.setSt_mode (s : State) (b : Byte) :
    (s.setSt b).mode = s.mode := rfl
@[simp] theorem State.setSt_cyc (s : State) (b : Byte) :
    (s.setSt b).cyc = s.cyc := rfl
@[simp] theorem State.setSt_fault (s : State) (b : Byte) :
    (s.setSt b).fault = s.fault := rfl
@[simp] theorem State.setSt_refresh (s : State) (b : Byte) :
    (s.setSt b).refresh = s.refresh := rfl
@[simp] theorem State.setSt_cfg (s : State) (b : Byte) :
    (s.setSt b).cfg = s.cfg := rfl
@[simp] theorem State.setSt_inputs (s : State) (b : Byte) :
    (s.setSt b).inputs = s.inputs := rfl
@[simp] theorem State.setSt_inputCount (s : State) (b : Byte) :
    (s.setSt b).inputCount = s.inputCount := rfl

/-! ### `setMode` -/

@[simp] theorem State.setMode_v (s : State) (m : Mode) :
    (s.setMode m).v = s.v := rfl
@[simp] theorem State.setMode_i (s : State) (m : Mode) :
    (s.setMode m).i = s.i := rfl
@[simp] theorem State.setMode_pc (s : State) (m : Mode) :
    (s.setMode m).pc = s.pc := rfl
@[simp] theorem State.setMode_sp (s : State) (m : Mode) :
    (s.setMode m).sp = s.sp := rfl
@[simp] theorem State.setMode_dt (s : State) (m : Mode) :
    (s.setMode m).dt = s.dt := rfl
@[simp] theorem State.setMode_st (s : State) (m : Mode) :
    (s.setMode m).st = s.st := rfl
@[simp] theorem State.setMode_mem (s : State) (m : Mode) :
    (s.setMode m).mem = s.mem := rfl
@[simp] theorem State.setMode_stk (s : State) (m : Mode) :
    (s.setMode m).stk = s.stk := rfl
@[simp] theorem State.setMode_fb (s : State) (m : Mode) :
    (s.setMode m).fb = s.fb := rfl
@[simp] theorem State.setMode_mode (s : State) (m : Mode) :
    (s.setMode m).mode = m := rfl
@[simp] theorem State.setMode_cyc (s : State) (m : Mode) :
    (s.setMode m).cyc = s.cyc := rfl
@[simp] theorem State.setMode_fault (s : State) (m : Mode) :
    (s.setMode m).fault = s.fault := rfl
@[simp] theorem State.setMode_refresh (s : State) (m : Mode) :
    (s.setMode m).refresh = s.refresh := rfl
@[simp] theorem State.setMode_cfg (s : State) (m : Mode) :
    (s.setMode m).cfg = s.cfg := rfl
@[simp] theorem State.setMode_inputs (s : State) (m : Mode) :
    (s.setMode m).inputs = s.inputs := rfl
@[simp] theorem State.setMode_inputCount (s : State) (m : Mode) :
    (s.setMode m).inputCount = s.inputCount := rfl

/-! ### `setCyc` -/

@[simp] theorem State.setCyc_v (s : State) (n : Nat) :
    (s.setCyc n).v = s.v := rfl
@[simp] theorem State.setCyc_i (s : State) (n : Nat) :
    (s.setCyc n).i = s.i := rfl
@[simp] theorem State.setCyc_pc (s : State) (n : Nat) :
    (s.setCyc n).pc = s.pc := rfl
@[simp] theorem State.setCyc_sp (s : State) (n : Nat) :
    (s.setCyc n).sp = s.sp := rfl
@[simp] theorem State.setCyc_dt (s : State) (n : Nat) :
    (s.setCyc n).dt = s.dt := rfl
@[simp] theorem State.setCyc_st (s : State) (n : Nat) :
    (s.setCyc n).st = s.st := rfl
@[simp] theorem State.setCyc_mem (s : State) (n : Nat) :
    (s.setCyc n).mem = s.mem := rfl
@[simp] theorem State.setCyc_stk (s : State) (n : Nat) :
    (s.setCyc n).stk = s.stk := rfl
@[simp] theorem State.setCyc_fb (s : State) (n : Nat) :
    (s.setCyc n).fb = s.fb := rfl
@[simp] theorem State.setCyc_mode (s : State) (n : Nat) :
    (s.setCyc n).mode = s.mode := rfl
@[simp] theorem State.setCyc_cyc (s : State) (n : Nat) :
    (s.setCyc n).cyc = n := rfl
@[simp] theorem State.setCyc_fault (s : State) (n : Nat) :
    (s.setCyc n).fault = s.fault := rfl
@[simp] theorem State.setCyc_refresh (s : State) (n : Nat) :
    (s.setCyc n).refresh = s.refresh := rfl
@[simp] theorem State.setCyc_cfg (s : State) (n : Nat) :
    (s.setCyc n).cfg = s.cfg := rfl
@[simp] theorem State.setCyc_inputs (s : State) (n : Nat) :
    (s.setCyc n).inputs = s.inputs := rfl
@[simp] theorem State.setCyc_inputCount (s : State) (n : Nat) :
    (s.setCyc n).inputCount = s.inputCount := rfl

/-! ### `setMem` -/

@[simp] theorem State.setMem_v (s : State) (m : Memory) :
    (s.setMem m).v = s.v := rfl
@[simp] theorem State.setMem_i (s : State) (m : Memory) :
    (s.setMem m).i = s.i := rfl
@[simp] theorem State.setMem_pc (s : State) (m : Memory) :
    (s.setMem m).pc = s.pc := rfl
@[simp] theorem State.setMem_sp (s : State) (m : Memory) :
    (s.setMem m).sp = s.sp := rfl
@[simp] theorem State.setMem_dt (s : State) (m : Memory) :
    (s.setMem m).dt = s.dt := rfl
@[simp] theorem State.setMem_st (s : State) (m : Memory) :
    (s.setMem m).st = s.st := rfl
@[simp] theorem State.setMem_mem (s : State) (m : Memory) :
    (s.setMem m).mem = m := rfl
@[simp] theorem State.setMem_stk (s : State) (m : Memory) :
    (s.setMem m).stk = s.stk := rfl
@[simp] theorem State.setMem_fb (s : State) (m : Memory) :
    (s.setMem m).fb = s.fb := rfl
@[simp] theorem State.setMem_mode (s : State) (m : Memory) :
    (s.setMem m).mode = s.mode := rfl
@[simp] theorem State.setMem_cyc (s : State) (m : Memory) :
    (s.setMem m).cyc = s.cyc := rfl
@[simp] theorem State.setMem_fault (s : State) (m : Memory) :
    (s.setMem m).fault = s.fault := rfl
@[simp] theorem State.setMem_refresh (s : State) (m : Memory) :
    (s.setMem m).refresh = s.refresh := rfl
@[simp] theorem State.setMem_cfg (s : State) (m : Memory) :
    (s.setMem m).cfg = s.cfg := rfl
@[simp] theorem State.setMem_inputs (s : State) (m : Memory) :
    (s.setMem m).inputs = s.inputs := rfl
@[simp] theorem State.setMem_inputCount (s : State) (m : Memory) :
    (s.setMem m).inputCount = s.inputCount := rfl

/-! ### `setStk` -/

@[simp] theorem State.setStk_v (s : State) (z : Stack) :
    (s.setStk z).v = s.v := rfl
@[simp] theorem State.setStk_i (s : State) (z : Stack) :
    (s.setStk z).i = s.i := rfl
@[simp] theorem State.setStk_pc (s : State) (z : Stack) :
    (s.setStk z).pc = s.pc := rfl
@[simp] theorem State.setStk_sp (s : State) (z : Stack) :
    (s.setStk z).sp = s.sp := rfl
@[simp] theorem State.setStk_dt (s : State) (z : Stack) :
    (s.setStk z).dt = s.dt := rfl
@[simp] theorem State.setStk_st (s : State) (z : Stack) :
    (s.setStk z).st = s.st := rfl
@[simp] theorem State.setStk_mem (s : State) (z : Stack) :
    (s.setStk z).mem = s.mem := rfl
@[simp] theorem State.setStk_stk (s : State) (z : Stack) :
    (s.setStk z).stk = z := rfl
@[simp] theorem State.setStk_fb (s : State) (z : Stack) :
    (s.setStk z).fb = s.fb := rfl
@[simp] theorem State.setStk_mode (s : State) (z : Stack) :
    (s.setStk z).mode = s.mode := rfl
@[simp] theorem State.setStk_cyc (s : State) (z : Stack) :
    (s.setStk z).cyc = s.cyc := rfl
@[simp] theorem State.setStk_fault (s : State) (z : Stack) :
    (s.setStk z).fault = s.fault := rfl
@[simp] theorem State.setStk_refresh (s : State) (z : Stack) :
    (s.setStk z).refresh = s.refresh := rfl
@[simp] theorem State.setStk_cfg (s : State) (z : Stack) :
    (s.setStk z).cfg = s.cfg := rfl
@[simp] theorem State.setStk_inputs (s : State) (z : Stack) :
    (s.setStk z).inputs = s.inputs := rfl
@[simp] theorem State.setStk_inputCount (s : State) (z : Stack) :
    (s.setStk z).inputCount = s.inputCount := rfl

/-! ### `setFb` -/

@[simp] theorem State.setFb_v (s : State) (f : Framebuffer) :
    (s.setFb f).v = s.v := rfl
@[simp] theorem State.setFb_i (s : State) (f : Framebuffer) :
    (s.setFb f).i = s.i := rfl
@[simp] theorem State.setFb_pc (s : State) (f : Framebuffer) :
    (s.setFb f).pc = s.pc := rfl
@[simp] theorem State.setFb_sp (s : State) (f : Framebuffer) :
    (s.setFb f).sp = s.sp := rfl
@[simp] theorem State.setFb_dt (s : State) (f : Framebuffer) :
    (s.setFb f).dt = s.dt := rfl
@[simp] theorem State.setFb_st (s : State) (f : Framebuffer) :
    (s.setFb f).st = s.st := rfl
@[simp] theorem State.setFb_mem (s : State) (f : Framebuffer) :
    (s.setFb f).mem = s.mem := rfl
@[simp] theorem State.setFb_stk (s : State) (f : Framebuffer) :
    (s.setFb f).stk = s.stk := rfl
@[simp] theorem State.setFb_fb (s : State) (f : Framebuffer) :
    (s.setFb f).fb = f := rfl
@[simp] theorem State.setFb_mode (s : State) (f : Framebuffer) :
    (s.setFb f).mode = s.mode := rfl
@[simp] theorem State.setFb_cyc (s : State) (f : Framebuffer) :
    (s.setFb f).cyc = s.cyc := rfl
@[simp] theorem State.setFb_fault (s : State) (f : Framebuffer) :
    (s.setFb f).fault = s.fault := rfl
@[simp] theorem State.setFb_refresh (s : State) (f : Framebuffer) :
    (s.setFb f).refresh = s.refresh := rfl
@[simp] theorem State.setFb_cfg (s : State) (f : Framebuffer) :
    (s.setFb f).cfg = s.cfg := rfl
@[simp] theorem State.setFb_inputs (s : State) (f : Framebuffer) :
    (s.setFb f).inputs = s.inputs := rfl
@[simp] theorem State.setFb_inputCount (s : State) (f : Framebuffer) :
    (s.setFb f).inputCount = s.inputCount := rfl

/-! ### `setRefresh` -/

@[simp] theorem State.setRefresh_v (s : State) (b : Bool) :
    (s.setRefresh b).v = s.v := rfl
@[simp] theorem State.setRefresh_i (s : State) (b : Bool) :
    (s.setRefresh b).i = s.i := rfl
@[simp] theorem State.setRefresh_pc (s : State) (b : Bool) :
    (s.setRefresh b).pc = s.pc := rfl
@[simp] theorem State.setRefresh_sp (s : State) (b : Bool) :
    (s.setRefresh b).sp = s.sp := rfl
@[simp] theorem State.setRefresh_dt (s : State) (b : Bool) :
    (s.setRefresh b).dt = s.dt := rfl
@[simp] theorem State.setRefresh_st (s : State) (b : Bool) :
    (s.setRefresh b).st = s.st := rfl
@[simp] theorem State.setRefresh_mem (s : State) (b : Bool) :
    (s.setRefresh b).mem = s.mem := rfl
@[simp] theorem State.setRefresh_stk (s : State) (b : Bool) :
    (s.setRefresh b).stk = s.stk := rfl
@[simp] theorem State.setRefresh_fb (s : State) (b : Bool) :
    (s.setRefresh b).fb = s.fb := rfl
@[simp] theorem State.setRefresh_mode (s : State) (b : Bool) :
    (s.setRefresh b).mode = s.mode := rfl
@[simp] theorem State.setRefresh_cyc (s : State) (b : Bool) :
    (s.setRefresh b).cyc = s.cyc := rfl
@[simp] theorem State.setRefresh_fault (s : State) (b : Bool) :
    (s.setRefresh b).fault = s.fault := rfl
@[simp] theorem State.setRefresh_refresh (s : State) (b : Bool) :
    (s.setRefresh b).refresh = b := rfl
@[simp] theorem State.setRefresh_cfg (s : State) (b : Bool) :
    (s.setRefresh b).cfg = s.cfg := rfl
@[simp] theorem State.setRefresh_inputs (s : State) (b : Bool) :
    (s.setRefresh b).inputs = s.inputs := rfl
@[simp] theorem State.setRefresh_inputCount (s : State) (b : Bool) :
    (s.setRefresh b).inputCount = s.inputCount := rfl

/-! ### `setFault` -/

@[simp] theorem State.setFault_v (s : State) (r : Option FaultRecord) :
    (s.setFault r).v = s.v := rfl
@[simp] theorem State.setFault_i (s : State) (r : Option FaultRecord) :
    (s.setFault r).i = s.i := rfl
@[simp] theorem State.setFault_pc (s : State) (r : Option FaultRecord) :
    (s.setFault r).pc = s.pc := rfl
@[simp] theorem State.setFault_sp (s : State) (r : Option FaultRecord) :
    (s.setFault r).sp = s.sp := rfl
@[simp] theorem State.setFault_dt (s : State) (r : Option FaultRecord) :
    (s.setFault r).dt = s.dt := rfl
@[simp] theorem State.setFault_st (s : State) (r : Option FaultRecord) :
    (s.setFault r).st = s.st := rfl
@[simp] theorem State.setFault_mem (s : State) (r : Option FaultRecord) :
    (s.setFault r).mem = s.mem := rfl
@[simp] theorem State.setFault_stk (s : State) (r : Option FaultRecord) :
    (s.setFault r).stk = s.stk := rfl
@[simp] theorem State.setFault_fb (s : State) (r : Option FaultRecord) :
    (s.setFault r).fb = s.fb := rfl
@[simp] theorem State.setFault_mode (s : State) (r : Option FaultRecord) :
    (s.setFault r).mode = s.mode := rfl
@[simp] theorem State.setFault_cyc (s : State) (r : Option FaultRecord) :
    (s.setFault r).cyc = s.cyc := rfl
@[simp] theorem State.setFault_fault (s : State) (r : Option FaultRecord) :
    (s.setFault r).fault = r := rfl
@[simp] theorem State.setFault_refresh (s : State) (r : Option FaultRecord) :
    (s.setFault r).refresh = s.refresh := rfl
@[simp] theorem State.setFault_cfg (s : State) (r : Option FaultRecord) :
    (s.setFault r).cfg = s.cfg := rfl
@[simp] theorem State.setFault_inputs (s : State) (r : Option FaultRecord) :
    (s.setFault r).inputs = s.inputs := rfl
@[simp] theorem State.setFault_inputCount (s : State) (r : Option FaultRecord) :
    (s.setFault r).inputCount = s.inputCount := rfl

/-! ### `consumeInput` -/

@[simp] theorem State.consumeInput_v (s : State) :
    s.consumeInput.v = s.v := rfl
@[simp] theorem State.consumeInput_i (s : State) :
    s.consumeInput.i = s.i := rfl
@[simp] theorem State.consumeInput_pc (s : State) :
    s.consumeInput.pc = s.pc := rfl
@[simp] theorem State.consumeInput_sp (s : State) :
    s.consumeInput.sp = s.sp := rfl
@[simp] theorem State.consumeInput_dt (s : State) :
    s.consumeInput.dt = s.dt := rfl
@[simp] theorem State.consumeInput_st (s : State) :
    s.consumeInput.st = s.st := rfl
@[simp] theorem State.consumeInput_mem (s : State) :
    s.consumeInput.mem = s.mem := rfl
@[simp] theorem State.consumeInput_stk (s : State) :
    s.consumeInput.stk = s.stk := rfl
@[simp] theorem State.consumeInput_fb (s : State) :
    s.consumeInput.fb = s.fb := rfl
@[simp] theorem State.consumeInput_mode (s : State) :
    s.consumeInput.mode = s.mode := rfl
@[simp] theorem State.consumeInput_cyc (s : State) :
    s.consumeInput.cyc = s.cyc := rfl
@[simp] theorem State.consumeInput_fault (s : State) :
    s.consumeInput.fault = s.fault := rfl
@[simp] theorem State.consumeInput_refresh (s : State) :
    s.consumeInput.refresh = s.refresh := rfl
@[simp] theorem State.consumeInput_cfg (s : State) :
    s.consumeInput.cfg = s.cfg := rfl
@[simp] theorem State.consumeInput_inputs (s : State) :
    s.consumeInput.inputs = s.inputs.tail := rfl
@[simp] theorem State.consumeInput_inputCount (s : State) :
    s.consumeInput.inputCount = s.inputCount + 1 := rfl

/-! ### `advance`, `beginCycle`, `takeFault` are single updates -/

@[simp] theorem State.advance_v (s : State) : s.advance.v = s.v := rfl
@[simp] theorem State.advance_i (s : State) : s.advance.i = s.i := rfl
@[simp] theorem State.advance_pc (s : State) : s.advance.pc = s.pc + 2#16 := rfl
@[simp] theorem State.advance_sp (s : State) : s.advance.sp = s.sp := rfl
@[simp] theorem State.advance_dt (s : State) : s.advance.dt = s.dt := rfl
@[simp] theorem State.advance_st (s : State) : s.advance.st = s.st := rfl
@[simp] theorem State.advance_mem (s : State) : s.advance.mem = s.mem := rfl
@[simp] theorem State.advance_stk (s : State) : s.advance.stk = s.stk := rfl
@[simp] theorem State.advance_fb (s : State) : s.advance.fb = s.fb := rfl
@[simp] theorem State.advance_mode (s : State) : s.advance.mode = s.mode := rfl
@[simp] theorem State.advance_cyc (s : State) : s.advance.cyc = s.cyc := rfl
@[simp] theorem State.advance_fault (s : State) : s.advance.fault = s.fault := rfl
@[simp] theorem State.advance_refresh (s : State) : s.advance.refresh = s.refresh := rfl
@[simp] theorem State.advance_cfg (s : State) : s.advance.cfg = s.cfg := rfl
@[simp] theorem State.advance_inputs (s : State) : s.advance.inputs = s.inputs := rfl
@[simp] theorem State.advance_inputCount (s : State) : s.advance.inputCount = s.inputCount := rfl
@[simp] theorem State.beginCycle_v (s : State) : s.beginCycle.v = s.v := rfl
@[simp] theorem State.beginCycle_i (s : State) : s.beginCycle.i = s.i := rfl
@[simp] theorem State.beginCycle_pc (s : State) : s.beginCycle.pc = s.pc := rfl
@[simp] theorem State.beginCycle_sp (s : State) : s.beginCycle.sp = s.sp := rfl
@[simp] theorem State.beginCycle_dt (s : State) : s.beginCycle.dt = s.dt := rfl
@[simp] theorem State.beginCycle_st (s : State) : s.beginCycle.st = s.st := rfl
@[simp] theorem State.beginCycle_mem (s : State) : s.beginCycle.mem = s.mem := rfl
@[simp] theorem State.beginCycle_stk (s : State) : s.beginCycle.stk = s.stk := rfl
@[simp] theorem State.beginCycle_fb (s : State) : s.beginCycle.fb = s.fb := rfl
@[simp] theorem State.beginCycle_mode (s : State) : s.beginCycle.mode = s.mode := rfl
@[simp] theorem State.beginCycle_cyc (s : State) : s.beginCycle.cyc = s.cyc := rfl
@[simp] theorem State.beginCycle_fault (s : State) : s.beginCycle.fault = s.fault := rfl
@[simp] theorem State.beginCycle_refresh (s : State) : s.beginCycle.refresh = false := rfl
@[simp] theorem State.beginCycle_cfg (s : State) : s.beginCycle.cfg = s.cfg := rfl
@[simp] theorem State.beginCycle_inputs (s : State) : s.beginCycle.inputs = s.inputs := rfl
@[simp] theorem State.beginCycle_inputCount (s : State) : s.beginCycle.inputCount = s.inputCount := rfl
@[simp] theorem State.takeFault_v (s : State) (k : FaultKind) (ia : Word) (op : Option Word)
    (a : Option Nat) : (s.takeFault k ia op a).v = s.v := rfl
@[simp] theorem State.takeFault_i (s : State) (k : FaultKind) (ia : Word) (op : Option Word)
    (a : Option Nat) : (s.takeFault k ia op a).i = s.i := rfl
@[simp] theorem State.takeFault_pc (s : State) (k : FaultKind) (ia : Word) (op : Option Word)
    (a : Option Nat) : (s.takeFault k ia op a).pc = s.pc := rfl
@[simp] theorem State.takeFault_sp (s : State) (k : FaultKind) (ia : Word) (op : Option Word)
    (a : Option Nat) : (s.takeFault k ia op a).sp = s.sp := rfl
@[simp] theorem State.takeFault_dt (s : State) (k : FaultKind) (ia : Word) (op : Option Word)
    (a : Option Nat) : (s.takeFault k ia op a).dt = s.dt := rfl
@[simp] theorem State.takeFault_st (s : State) (k : FaultKind) (ia : Word) (op : Option Word)
    (a : Option Nat) : (s.takeFault k ia op a).st = s.st := rfl
@[simp] theorem State.takeFault_mem (s : State) (k : FaultKind) (ia : Word) (op : Option Word)
    (a : Option Nat) : (s.takeFault k ia op a).mem = s.mem := rfl
@[simp] theorem State.takeFault_stk (s : State) (k : FaultKind) (ia : Word) (op : Option Word)
    (a : Option Nat) : (s.takeFault k ia op a).stk = s.stk := rfl
@[simp] theorem State.takeFault_fb (s : State) (k : FaultKind) (ia : Word) (op : Option Word)
    (a : Option Nat) : (s.takeFault k ia op a).fb = s.fb := rfl
@[simp] theorem State.takeFault_mode (s : State) (k : FaultKind) (ia : Word) (op : Option Word)
    (a : Option Nat) : (s.takeFault k ia op a).mode = s.mode := rfl
@[simp] theorem State.takeFault_cyc (s : State) (k : FaultKind) (ia : Word) (op : Option Word)
    (a : Option Nat) : (s.takeFault k ia op a).cyc = s.cyc := rfl
@[simp] theorem State.takeFault_fault (s : State) (k : FaultKind) (ia : Word) (op : Option Word)
    (a : Option Nat) : (s.takeFault k ia op a).fault = some ⟨k, ia, op, a⟩ := rfl
@[simp] theorem State.takeFault_refresh (s : State) (k : FaultKind) (ia : Word) (op : Option Word)
    (a : Option Nat) : (s.takeFault k ia op a).refresh = s.refresh := rfl
@[simp] theorem State.takeFault_cfg (s : State) (k : FaultKind) (ia : Word) (op : Option Word)
    (a : Option Nat) : (s.takeFault k ia op a).cfg = s.cfg := rfl
@[simp] theorem State.takeFault_inputs (s : State) (k : FaultKind) (ia : Word) (op : Option Word)
    (a : Option Nat) : (s.takeFault k ia op a).inputs = s.inputs := rfl
@[simp] theorem State.takeFault_inputCount (s : State) (k : FaultKind) (ia : Word) (op : Option Word)
    (a : Option Nat) : (s.takeFault k ia op a).inputCount = s.inputCount := rfl
@[simp] theorem State.execFault_v (s : State) (j : Instr) (k : FaultKind) (a : Nat) :
    (s.execFault j k a).v = s.v := rfl
@[simp] theorem State.execFault_i (s : State) (j : Instr) (k : FaultKind) (a : Nat) :
    (s.execFault j k a).i = s.i := rfl
@[simp] theorem State.execFault_pc (s : State) (j : Instr) (k : FaultKind) (a : Nat) :
    (s.execFault j k a).pc = s.pc := rfl
@[simp] theorem State.execFault_sp (s : State) (j : Instr) (k : FaultKind) (a : Nat) :
    (s.execFault j k a).sp = s.sp := rfl
@[simp] theorem State.execFault_dt (s : State) (j : Instr) (k : FaultKind) (a : Nat) :
    (s.execFault j k a).dt = s.dt := rfl
@[simp] theorem State.execFault_st (s : State) (j : Instr) (k : FaultKind) (a : Nat) :
    (s.execFault j k a).st = s.st := rfl
@[simp] theorem State.execFault_mem (s : State) (j : Instr) (k : FaultKind) (a : Nat) :
    (s.execFault j k a).mem = s.mem := rfl
@[simp] theorem State.execFault_stk (s : State) (j : Instr) (k : FaultKind) (a : Nat) :
    (s.execFault j k a).stk = s.stk := rfl
@[simp] theorem State.execFault_fb (s : State) (j : Instr) (k : FaultKind) (a : Nat) :
    (s.execFault j k a).fb = s.fb := rfl
@[simp] theorem State.execFault_mode (s : State) (j : Instr) (k : FaultKind) (a : Nat) :
    (s.execFault j k a).mode = s.mode := rfl
@[simp] theorem State.execFault_cyc (s : State) (j : Instr) (k : FaultKind) (a : Nat) :
    (s.execFault j k a).cyc = s.cyc := rfl
@[simp] theorem State.execFault_fault (s : State) (j : Instr) (k : FaultKind) (a : Nat) :
    (s.execFault j k a).fault = some ⟨k, s.pc - 2#16, some (encode j), some a⟩ := rfl
@[simp] theorem State.execFault_refresh (s : State) (j : Instr) (k : FaultKind) (a : Nat) :
    (s.execFault j k a).refresh = s.refresh := rfl
@[simp] theorem State.execFault_cfg (s : State) (j : Instr) (k : FaultKind) (a : Nat) :
    (s.execFault j k a).cfg = s.cfg := rfl
@[simp] theorem State.execFault_inputs (s : State) (j : Instr) (k : FaultKind) (a : Nat) :
    (s.execFault j k a).inputs = s.inputs := rfl
@[simp] theorem State.execFault_inputCount (s : State) (j : Instr) (k : FaultKind) (a : Nat) :
    (s.execFault j k a).inputCount = s.inputCount := rfl

/-! ### Reading a register after an update -/

theorem State.getV_setV (s : State) (x k : RegIx) (b : Byte) :
    (s.setV x b).getV k = if k = x then b else s.getV k := by
  simp only [State.getV, State.setV, Fin.getElem_fin, Vector.getElem_set]
  by_cases h : k = x
  · simp [h]
  · simp [h, show ¬ x.val = k.val from fun e => h (Fin.ext e.symm)]

@[simp] theorem State.getV_setV_self (s : State) (x : RegIx) (b : Byte) : (s.setV x b).getV x = b := by
  simp [State.getV_setV]

theorem State.getV_setV_ne (s : State) {x k : RegIx} (b : Byte) (h : k ≠ x) :
    (s.setV x b).getV k = s.getV k := by
  simp [State.getV_setV, h]

@[simp] theorem State.getV_setI (s : State) (w : Word) (k : RegIx) :
    (s.setI w).getV k = s.getV k := rfl
@[simp] theorem State.getV_setPc (s : State) (w : Word) (k : RegIx) :
    (s.setPc w).getV k = s.getV k := rfl
@[simp] theorem State.getV_setSp (s : State) (b : Byte) (k : RegIx) :
    (s.setSp b).getV k = s.getV k := rfl
@[simp] theorem State.getV_setDt (s : State) (b : Byte) (k : RegIx) :
    (s.setDt b).getV k = s.getV k := rfl
@[simp] theorem State.getV_setSt (s : State) (b : Byte) (k : RegIx) :
    (s.setSt b).getV k = s.getV k := rfl
@[simp] theorem State.getV_setMode (s : State) (m : Mode) (k : RegIx) :
    (s.setMode m).getV k = s.getV k := rfl
@[simp] theorem State.getV_setCyc (s : State) (n : Nat) (k : RegIx) :
    (s.setCyc n).getV k = s.getV k := rfl
@[simp] theorem State.getV_setMem (s : State) (m : Memory) (k : RegIx) :
    (s.setMem m).getV k = s.getV k := rfl
@[simp] theorem State.getV_setStk (s : State) (z : Stack) (k : RegIx) :
    (s.setStk z).getV k = s.getV k := rfl
@[simp] theorem State.getV_setFb (s : State) (f : Framebuffer) (k : RegIx) :
    (s.setFb f).getV k = s.getV k := rfl
@[simp] theorem State.getV_setRefresh (s : State) (b : Bool) (k : RegIx) :
    (s.setRefresh b).getV k = s.getV k := rfl
@[simp] theorem State.getV_setFault (s : State) (r : Option FaultRecord) (k : RegIx) :
    (s.setFault r).getV k = s.getV k := rfl
@[simp] theorem State.getV_consumeInput (s : State) (k : RegIx) : s.consumeInput.getV k = s.getV k := rfl
@[simp] theorem State.getV_advance (s : State) (k : RegIx) : s.advance.getV k = s.getV k := rfl
@[simp] theorem State.getV_beginCycle (s : State) (k : RegIx) : s.beginCycle.getV k = s.getV k := rfl

/-! ### Reading a pixel after an update -/

@[simp] theorem State.pixel_setV (s : State) (x : RegIx) (b : Byte) (cx : Fin 64) (cy : Fin 32) :
    (s.setV x b).pixel cx cy = s.pixel cx cy := rfl
@[simp] theorem State.pixel_setI (s : State) (w : Word) (cx : Fin 64) (cy : Fin 32) :
    (s.setI w).pixel cx cy = s.pixel cx cy := rfl
@[simp] theorem State.pixel_setPc (s : State) (w : Word) (cx : Fin 64) (cy : Fin 32) :
    (s.setPc w).pixel cx cy = s.pixel cx cy := rfl
@[simp] theorem State.pixel_setSp (s : State) (b : Byte) (cx : Fin 64) (cy : Fin 32) :
    (s.setSp b).pixel cx cy = s.pixel cx cy := rfl
@[simp] theorem State.pixel_setDt (s : State) (b : Byte) (cx : Fin 64) (cy : Fin 32) :
    (s.setDt b).pixel cx cy = s.pixel cx cy := rfl
@[simp] theorem State.pixel_setSt (s : State) (b : Byte) (cx : Fin 64) (cy : Fin 32) :
    (s.setSt b).pixel cx cy = s.pixel cx cy := rfl
@[simp] theorem State.pixel_setMode (s : State) (m : Mode) (cx : Fin 64) (cy : Fin 32) :
    (s.setMode m).pixel cx cy = s.pixel cx cy := rfl
@[simp] theorem State.pixel_setCyc (s : State) (n : Nat) (cx : Fin 64) (cy : Fin 32) :
    (s.setCyc n).pixel cx cy = s.pixel cx cy := rfl
@[simp] theorem State.pixel_setMem (s : State) (m : Memory) (cx : Fin 64) (cy : Fin 32) :
    (s.setMem m).pixel cx cy = s.pixel cx cy := rfl
@[simp] theorem State.pixel_setStk (s : State) (z : Stack) (cx : Fin 64) (cy : Fin 32) :
    (s.setStk z).pixel cx cy = s.pixel cx cy := rfl
@[simp] theorem State.pixel_setRefresh (s : State) (b : Bool) (cx : Fin 64) (cy : Fin 32) :
    (s.setRefresh b).pixel cx cy = s.pixel cx cy := rfl
@[simp] theorem State.pixel_setFault (s : State) (r : Option FaultRecord) (cx : Fin 64) (cy : Fin 32) :
    (s.setFault r).pixel cx cy = s.pixel cx cy := rfl
@[simp] theorem State.pixel_setFb (s : State) (f : Framebuffer) (cx : Fin 64) (cy : Fin 32) :
    (s.setFb f).pixel cx cy = f.get cx cy := rfl

end Sys2Proof.Machine
end

