-- ==== Sys2Proof/Laws/Draw.lean ====
section
/-! SUPPORT. What the draw loop does: each pixel is XORed once with its sprite bit, and the flag says whether a
set pixel met a set bit (43_display.md R152, R153). -/

namespace Sys2Proof.Machine

theorem Framebuffer.get_put (f : Framebuffer) (x cx : Fin 64) (y cy : Fin 32) (b : Bool) :
    (f.put x y b).get cx cy = if cx = x ∧ cy = y then b else f.get cx cy := by
  unfold Framebuffer.get Framebuffer.put
  simp only [Fin.getElem_fin, Vector.getElem_set]
  by_cases hx : x.val = cx.val
  · have hx' : cx = x := Fin.ext hx.symm
    subst hx'
    simp only [if_true, Vector.getElem_set, true_and]
    by_cases hy : y.val = cy.val
    · simp [Fin.ext hy.symm]
    · simp [hy, show ¬ cy = y from fun e => hy (by rw [e])]
  · simp [hx, show ¬ cx = x from fun e => hx (by rw [e])]

@[simp] theorem Framebuffer.get_clear (cx : Fin 64) (cy : Fin 32) : Framebuffer.clear.get cx cy = false := by
  simp [Framebuffer.get, Framebuffer.clear]

/-- Column `col` of the sprite is at `cx` exactly when `cx` asks for it. -/
theorem eq_pixelX_iff (vx : Byte) (cx : Fin 64) {col : Nat} (h : col < 64) :
    cx = pixelX vx col ↔ spriteCol vx cx = col := by
  have := cx.isLt
  simp only [Fin.ext_iff, pixelX, Fin.ofNat, spriteCol]
  omega

theorem eq_pixelY_iff (vy : Byte) (cy : Fin 32) {row : Nat} (h : row < 32) :
    cy = pixelY vy row ↔ spriteRow vy cy = row := by
  have := cy.isLt
  simp only [Fin.ext_iff, pixelY, Fin.ofNat, spriteRow]
  omega

/-- The first `m` columns of one row. -/
theorem drawPixels_get (vx vy : Byte) (row : Nat) (b : Byte) (acc : Framebuffer × Bool) (cx : Fin 64)
    (cy : Fin 32) (m : Nat) (hm : m ≤ 64) :
    ((List.range m).foldl (drawPixel vx vy row b) acc).1.get cx cy =
      xor (acc.1.get cx cy)
        (decide (cy = pixelY vy row) && decide (spriteCol vx cx < m) && spriteBit b (spriteCol vx cx)) := by
  induction m with
  | zero => simp
  | succ m ih =>
    rw [List.range_succ, List.foldl_append, List.foldl_cons, List.foldl_nil]
    simp only [drawPixel, Framebuffer.get_put]
    have hcol := eq_pixelX_iff vx cx (show m < 64 by omega)
    by_cases hy : cy = pixelY vy row
    · by_cases hx : cx = pixelX vx m
      · have hc := hcol.1 hx
        rw [if_pos ⟨hx, hy⟩, ← hx, ← hy, ih (by omega), hc]
        simp
      · have hc : spriteCol vx cx ≠ m := fun e => hx (hcol.2 e)
        rw [if_neg (fun e => hx e.1), ih (by omega)]
        simp [show spriteCol vx cx < m + 1 ↔ spriteCol vx cx < m by omega]
    · rw [if_neg (fun e => hy e.2), ih (by omega)]
      simp [hy]

theorem drawPixels_collides (vx vy : Byte) (row : Nat) (b : Byte) (acc : Framebuffer × Bool) (m : Nat)
    (hm : m ≤ 64) :
    ((List.range m).foldl (drawPixel vx vy row b) acc).2 =
      (acc.2 || (List.range m).any fun col =>
        spriteBit b col && acc.1.get (pixelX vx col) (pixelY vy row)) := by
  induction m with
  | zero => simp
  | succ m ih =>
    rw [List.range_succ, List.foldl_append, List.foldl_cons, List.foldl_nil]
    simp only [drawPixel, List.any_append, List.any_cons, List.any_nil, Bool.or_false]
    rw [ih (by omega), drawPixels_get _ _ _ _ _ _ _ _ (by omega),
      (eq_pixelX_iff vx (pixelX vx m) (show m < 64 by omega)).1 rfl]
    simp [Bool.or_assoc]

/-- The first `m` rows of a draw. -/
theorem drawRows_get (s : State) (vx vy : Byte) (acc : Framebuffer × Bool) (cx : Fin 64) (cy : Fin 32)
    (m : Nat) (hm : m ≤ 32) :
    ((List.range m).foldl (s.drawRow vx vy) acc).1.get cx cy =
      xor (acc.1.get cx cy) (s.spriteAt vx vy m cx cy) := by
  induction m with
  | zero => simp [State.spriteAt]
  | succ m ih =>
    rw [List.range_succ, List.foldl_append, List.foldl_cons, List.foldl_nil, State.drawRow,
      drawPixels_get _ _ _ _ _ _ _ _ (by decide), ih (by omega)]
    have hrow := eq_pixelY_iff vy cy (show m < 32 by omega)
    by_cases hy : cy = pixelY vy m
    · have hr := hrow.1 hy
      simp [State.spriteAt, hr, ← hy, spriteBit, State.ea]
    · have hr : spriteRow vy cy ≠ m := fun e => hy (hrow.2 e)
      simp [State.spriteAt, hy, show spriteRow vy cy < m + 1 ↔ spriteRow vy cy < m by omega]

theorem drawRows_collides (s : State) (vx vy : Byte) (acc : Framebuffer × Bool) (m : Nat) (hm : m ≤ 32) :
    ((List.range m).foldl (s.drawRow vx vy) acc).2 =
      (acc.2 || (List.range m).any fun row => (List.range 8).any fun col =>
        spriteBit (s.mem.read (s.ea row)) col && acc.1.get (pixelX vx col) (pixelY vy row)) := by
  induction m with
  | zero => simp
  | succ m ih =>
    rw [List.range_succ, List.foldl_append, List.foldl_cons, List.foldl_nil, State.drawRow,
      drawPixels_collides _ _ _ _ _ _ (by decide), ih (by omega)]
    simp only [List.any_append, List.any_cons, List.any_nil, Bool.or_false, Bool.or_assoc]
    congr 2
    refine congrArg (List.range 8).any (funext fun col => ?_)
    rw [drawRows_get _ _ _ _ _ _ _ (by omega), State.spriteAt,
      (eq_pixelY_iff vy (pixelY vy m) (show m < 32 by omega)).1 rfl]
    simp

/-- A draw XORs the sprite into the framebuffer, pixel by pixel. -/
theorem State.drawSprite_get (s : State) (vx vy : Byte) (n : Nat) (hn : n ≤ 32) (cx : Fin 64) (cy : Fin 32) :
    (s.drawSprite vx vy n).1.get cx cy = xor (s.pixel cx cy) (s.spriteAt vx vy n cx cy) :=
  drawRows_get s vx vy (s.fb, false) cx cy n hn

/-- The collision flag of a draw: some set pixel met a set sprite bit. -/
theorem State.drawSprite_collides (s : State) (vx vy : Byte) (n : Nat) (hn : n ≤ 32) :
    (s.drawSprite vx vy n).2 = true ↔ ∃ cx cy, s.pixel cx cy = true ∧ s.spriteAt vx vy n cx cy = true := by
  have h := drawRows_collides s vx vy (s.fb, false) n hn
  simp only [State.drawSprite, h, Bool.false_or, List.any_eq_true, List.mem_range, Bool.and_eq_true]
  constructor
  · rintro ⟨row, hr, col, hc, hb, hp⟩
    refine ⟨pixelX vx col, pixelY vy row, hp, ?_⟩
    have h1 := (eq_pixelX_iff vx (pixelX vx col) (show col < 64 by omega)).1 rfl
    have h2 := (eq_pixelY_iff vy (pixelY vy row) (show row < 32 by omega)).1 rfl
    simp only [State.spriteAt, h1, h2, Bool.and_eq_true, decide_eq_true_eq]
    exact ⟨⟨hr, hc⟩, hb⟩
  · rintro ⟨cx, cy, hp, hs⟩
    simp only [State.spriteAt, Bool.and_eq_true, decide_eq_true_eq] at hs
    refine ⟨spriteRow vy cy, hs.1.1, spriteCol vx cx, hs.1.2, hs.2, ?_⟩
    rw [← (eq_pixelX_iff vx cx (by omega)).2 rfl, ← (eq_pixelY_iff vy cy (by omega)).2 rfl]
    exact hp

end Sys2Proof.Machine
end

