-- ==== Sys2Proof/Laws/Encoding.lean ====
section
/-! SUPPORT. Fields of packed words and words packed of fields (30_encoding.md R81, R85). -/

namespace Sys2Proof

theorem regNibble_toNat (x : RegIx) : (regNibble x).toNat = x.val := by
  simp only [regNibble, BitVec.toNat_ofNat]
  exact Nat.mod_eq_of_lt x.isLt

theorem regNibble_fieldX (op : Word) : regNibble (fieldX op) = op.extractLsb' 8 4 := by
  apply BitVec.eq_of_toNat_eq
  rw [regNibble_toNat]; rfl

theorem regNibble_fieldY (op : Word) : regNibble (fieldY op) = op.extractLsb' 4 4 := by
  apply BitVec.eq_of_toNat_eq
  rw [regNibble_toNat]; rfl

/-- The high part of an append. -/
theorem extract_high {a b : Nat} (x : BitVec a) (y : BitVec b) : (x ++ y).extractLsb' b a = x := by
  ext j hj
  simp [BitVec.getLsbD_append, hj]

/-- The low part of an append. -/
theorem extract_low {a b : Nat} (x : BitVec a) (y : BitVec b) : (x ++ y).extractLsb' 0 b = y := by
  ext j hj
  simp [BitVec.getLsbD_append, hj]

/-- A field inside the high part of an append. -/
theorem extract_in_high {a b s n : Nat} (x : BitVec a) (y : BitVec b) (h : b ≤ s) :
    (x ++ y).extractLsb' s n = x.extractLsb' (s - b) n := by
  ext j hj
  simp [BitVec.getLsbD_append, show ¬ s + j < b by omega, show s + j - b = s - b + j by omega]

/-- A field inside the low part of an append. -/
theorem extract_in_low {a b s n : Nat} (x : BitVec a) (y : BitVec b) (h : s + n ≤ b) :
    (x ++ y).extractLsb' s n = y.extractLsb' s n := by
  ext j hj
  simp [BitVec.getLsbD_append, show s + j < b by omega]

@[simp] theorem fieldGrp_packNnn (g : BitVec 4) (a : BitVec 12) : fieldGrp (packNnn g a) = g :=
  extract_high g a

@[simp] theorem fieldNnn_packNnn (g : BitVec 4) (a : BitVec 12) : fieldNnn (packNnn g a) = a :=
  extract_low g a

@[simp] theorem fieldGrp_packXKk (g : BitVec 4) (x : RegIx) (kk : Byte) :
    fieldGrp (packXKk g x kk) = g := by
  unfold fieldGrp packXKk
  rw [extract_in_high _ _ (by decide)]
  exact extract_high g (regNibble x)

@[simp] theorem fieldX_packXKk (g : BitVec 4) (x : RegIx) (kk : Byte) :
    fieldX (packXKk g x kk) = x := by
  have h : (packXKk g x kk).extractLsb' 8 4 = regNibble x := by
    unfold packXKk
    rw [extract_in_high _ _ (by decide)]
    exact extract_low g (regNibble x)
  apply Fin.ext
  simp only [fieldX, h, regNibble_toNat]

@[simp] theorem fieldKk_packXKk (g : BitVec 4) (x : RegIx) (kk : Byte) :
    fieldKk (packXKk g x kk) = kk :=
  extract_low _ kk

@[simp] theorem fieldGrp_packXYN (g : BitVec 4) (x y : RegIx) (n : BitVec 4) :
    fieldGrp (packXYN g x y n) = g := by
  unfold fieldGrp packXYN
  rw [extract_in_high _ _ (by decide)]
  exact extract_high g (regNibble x)

@[simp] theorem fieldX_packXYN (g : BitVec 4) (x y : RegIx) (n : BitVec 4) :
    fieldX (packXYN g x y n) = x := by
  have h : (packXYN g x y n).extractLsb' 8 4 = regNibble x := by
    unfold packXYN
    rw [extract_in_high _ _ (by decide)]
    exact extract_low g (regNibble x)
  apply Fin.ext
  simp only [fieldX, h, regNibble_toNat]

@[simp] theorem fieldY_packXYN (g : BitVec 4) (x y : RegIx) (n : BitVec 4) :
    fieldY (packXYN g x y n) = y := by
  have h : (packXYN g x y n).extractLsb' 4 4 = regNibble y := by
    unfold packXYN
    rw [extract_in_low _ _ (by decide)]
    exact extract_high (regNibble y) n
  apply Fin.ext
  simp only [fieldY, h, regNibble_toNat]

@[simp] theorem fieldN_packXYN (g : BitVec 4) (x y : RegIx) (n : BitVec 4) :
    fieldN (packXYN g x y n) = n := by
  unfold fieldN packXYN
  rw [extract_in_low _ _ (by decide)]
  exact extract_low (regNibble y) n

/-- A word is its top four bits and the rest. -/
theorem append_split (op : Word) : op.extractLsb' 12 4 ++ op.extractLsb' 0 12 = op := by
  refine BitVec.eq_of_getLsbD_eq (w := 16) fun j hj => ?_
  rw [BitVec.getLsbD_append]
  split
  · simp [*]
  · simp [show j - 12 < 4 by omega, show 12 + (j - 12) = j by omega]

/-- A word is its fields in format `NNN`. -/
theorem packNnn_fields (op : Word) : packNnn (fieldGrp op) (fieldNnn op) = op :=
  append_split op

/-- A word is its fields in format `XKK`. -/
theorem packXKk_fields (op : Word) : packXKk (fieldGrp op) (fieldX op) (fieldKk op) = op := by
  unfold packXKk
  rw [regNibble_fieldX]
  unfold fieldGrp fieldKk
  refine BitVec.eq_of_getLsbD_eq (w := 16) fun j hj => ?_
  rw [BitVec.getLsbD_append]
  split
  · simp [*]
  · rw [BitVec.getLsbD_append]
    split
    · simp [*, show 8 + (j - 8) = j by omega]
    · simp [show j - 8 - 4 < 4 by omega, show 12 + (j - 8 - 4) = j by omega]

/-- A word is its fields in format `XYN`. -/
theorem packXYN_fields (op : Word) :
    packXYN (fieldGrp op) (fieldX op) (fieldY op) (fieldN op) = op := by
  unfold packXYN
  rw [regNibble_fieldX, regNibble_fieldY]
  unfold fieldGrp fieldN
  refine BitVec.eq_of_getLsbD_eq (w := 16) fun j hj => ?_
  rw [BitVec.getLsbD_append]
  split
  · rw [BitVec.getLsbD_append]
    split
    · simp [*]
    · simp [show j - 4 < 4 by omega, show 4 + (j - 4) = j by omega]
  · rw [BitVec.getLsbD_append]
    split
    · simp [show j - 8 < 4 by omega, show 8 + (j - 8) = j by omega]
    · simp [show j - 8 - 4 < 4 by omega, show 12 + (j - 8 - 4) = j by omega]

/-- The bytes of a word joined again. -/
@[simp] theorem joinBytes_high_low (op : Word) : joinBytes (highByte op) (lowByte op) = op := by
  unfold joinBytes highByte lowByte
  refine BitVec.eq_of_getLsbD_eq (w := 16) fun j hj => ?_
  rw [BitVec.getLsbD_append]
  split
  · simp [*]
  · simp [show j - 8 < 8 by omega, show 8 + (j - 8) = j by omega]

theorem joinBytes_toNat (hi lo : Byte) : (joinBytes hi lo).toNat = 256 * hi.toNat + lo.toNat := by
  unfold joinBytes
  rw [BitVec.toNat_append, ← Nat.shiftLeft_add_eq_or_of_lt lo.isLt, Nat.shiftLeft_eq]
  omega

/-! ### Fields as arithmetic on the word -/

theorem fieldGrp_toNat (op : Word) : (fieldGrp op).toNat = op.toNat / 4096 := by
  have := op.isLt
  simp only [fieldGrp, BitVec.extractLsb'_toNat, Nat.shiftRight_eq_div_pow]
  omega

theorem fieldX_val (op : Word) : (fieldX op).val = op.toNat / 256 % 16 := by
  simp only [fieldX, BitVec.extractLsb'_toNat, Nat.shiftRight_eq_div_pow]

theorem fieldY_val (op : Word) : (fieldY op).val = op.toNat / 16 % 16 := by
  simp only [fieldY, BitVec.extractLsb'_toNat, Nat.shiftRight_eq_div_pow]

theorem fieldN_toNat (op : Word) : (fieldN op).toNat = op.toNat % 16 := by
  simp only [fieldN, BitVec.extractLsb'_toNat, Nat.shiftRight_eq_div_pow]
  omega

theorem fieldKk_toNat (op : Word) : (fieldKk op).toNat = op.toNat % 256 := by
  simp only [fieldKk, BitVec.extractLsb'_toNat, Nat.shiftRight_eq_div_pow]
  omega

theorem fieldNnn_toNat (op : Word) : (fieldNnn op).toNat = op.toNat % 4096 := by
  simp only [fieldNnn, BitVec.extractLsb'_toNat, Nat.shiftRight_eq_div_pow]
  omega

end Sys2Proof
end

