-- ==== Sys2Proof/Laws/Memory.lean ====
section
/-! SUPPORT. The byte memory: a read after a write, and that every memory operation keeps the canonical form
(20_memory.md R51 to R53, R66). -/

namespace Sys2Proof.Machine

theorem Memory.read_filter (m : Memory) (a c : Nat) :
    Memory.read (m.filter (fun x => x.1 != a)) c = if c = a then Memory.unlisted a else Memory.read m c := by
  induction m with
  | nil => by_cases h : c = a <;> simp [Memory.read, h]
  | cons x m ih =>
    obtain ⟨k, b⟩ := x
    by_cases hk : k = a
    · subst hk
      by_cases hc : c = k
      · simpa [Memory.read, hc] using (by simpa [hc] using ih)
      · simpa [Memory.read, hc, Ne.symm hc] using ih
    · by_cases hc : k = c
      · subst hc; simp [Memory.read, hk]
      · simpa [Memory.read, hk, hc] using ih

theorem Memory.read_insertCell (m : Memory) (a c : Nat) (b : Byte) (h : ∀ x ∈ m, x.1 ≠ a) :
    Memory.read (Memory.insertCell a b m) c = if c = a then b else Memory.read m c := by
  induction m with
  | nil =>
    by_cases hc : c = a
    · simp [Memory.insertCell, Memory.read, hc]
    · simp [Memory.insertCell, Memory.read, hc, Ne.symm hc]
  | cons x m ih =>
    obtain ⟨k, v⟩ := x
    have hk : k ≠ a := h (k, v) (by simp)
    have ih' := ih fun x hx => h x (by simp [hx])
    simp only [Memory.insertCell]
    split
    · by_cases hc : c = a
      · simp [Memory.read, hc]
      · simp [Memory.read, hc, Ne.symm hc]
    · by_cases hc : k = c
      · subst hc; simp [Memory.read, hk]
      · simp only [Memory.read, hc, if_false, ih']

/-- A read after a write, for every memory: the value written there, the old value elsewhere. -/
theorem Memory.read_write (m : Memory) (a c : Nat) (b : Byte) :
    Memory.read (Memory.write m a b) c = if c = a then b else Memory.read m c := by
  unfold Memory.write
  by_cases h : b = Memory.unlisted a
  · simp only [h, if_true, Memory.read_filter]
  · simp only [h, if_false]
    rw [Memory.read_insertCell _ _ _ _ (by simp), Memory.read_filter]
    split <;> rfl

/-- A read after a run of writes. -/
theorem Memory.read_writeBytes (bs : List Byte) (m : Memory) (a c : Nat) :
    Memory.read (Memory.writeBytes m a bs) c =
      if a ≤ c ∧ c < a + bs.length then bs.getD (c - a) 0#8 else Memory.read m c := by
  induction bs generalizing m a with
  | nil => simp [Memory.writeBytes]
  | cons b bs ih =>
    simp only [Memory.writeBytes, ih, Memory.read_write, List.length_cons]
    by_cases hc : c = a
    · subst hc; simp
    · by_cases h1 : a + 1 ≤ c ∧ c < a + 1 + bs.length
      · rw [if_pos h1, if_pos (by omega), show c - a = (c - (a + 1)) + 1 by omega, List.getD_cons_succ]
      · rw [if_neg h1, if_neg hc, if_neg (by omega)]

/-! ### The canonical form -/

theorem Memory.wfFrom_mono (m : Memory) {lo hi : Nat} (h : Memory.wfFrom hi m = true) (hl : lo ≤ hi) :
    Memory.wfFrom lo m = true := by
  cases m with
  | nil => rfl
  | cons x m =>
    obtain ⟨k, b⟩ := x
    simp only [Memory.wfFrom, Bool.and_eq_true, decide_eq_true_eq] at h ⊢
    exact ⟨⟨⟨le_trans hl h.1.1.1, h.1.1.2⟩, h.1.2⟩, h.2⟩

theorem Memory.wfFrom_filter (m : Memory) (p : Host.Cell → Bool) (lo : Nat)
    (h : Memory.wfFrom lo m = true) : Memory.wfFrom lo (m.filter p) = true := by
  induction m generalizing lo with
  | nil => rfl
  | cons x m ih =>
    obtain ⟨k, b⟩ := x
    simp only [Memory.wfFrom, Bool.and_eq_true, decide_eq_true_eq] at h
    by_cases hp : p (k, b) = true
    · rw [List.filter_cons_of_pos hp]
      simp only [Memory.wfFrom, Bool.and_eq_true, decide_eq_true_eq]
      exact ⟨h.1, ih _ h.2⟩
    · rw [List.filter_cons_of_neg hp]
      exact Memory.wfFrom_mono _ (ih _ h.2) (by omega)

theorem Memory.wfFrom_insertCell (m : Memory) (a : Nat) (b : Byte) (lo : Nat)
    (h : Memory.wfFrom lo m = true) (hlo : lo ≤ a) (ha : a < Config.memSize)
    (hb : b ≠ Memory.unlisted a) (hne : ∀ x ∈ m, x.1 ≠ a) :
    Memory.wfFrom lo (Memory.insertCell a b m) = true := by
  induction m generalizing lo with
  | nil =>
    simp only [Memory.insertCell, Memory.wfFrom, Bool.and_eq_true, decide_eq_true_eq, bne_iff_ne]
    exact ⟨⟨⟨hlo, ha⟩, hb⟩, trivial⟩
  | cons x m ih =>
    obtain ⟨k, v⟩ := x
    have hk : k ≠ a := hne (k, v) (by simp)
    have h' := h
    simp only [Memory.wfFrom, Bool.and_eq_true, decide_eq_true_eq] at h'
    simp only [Memory.insertCell]
    split
    · rename_i hlt
      simp only [Memory.wfFrom, Bool.and_eq_true, decide_eq_true_eq, bne_iff_ne] at h ⊢
      exact ⟨⟨⟨hlo, ha⟩, hb⟩, ⟨⟨⟨hlt, h.1.1.2⟩, h.1.2⟩, h.2⟩⟩
    · rename_i hlt
      simp only [Memory.wfFrom, Bool.and_eq_true, decide_eq_true_eq]
      have hlt' : ¬ a < k := hlt
      exact ⟨h'.1, ih _ h'.2 (by omega) fun x hx => hne x (by simp [hx])⟩

/-- A write inside `MEM` keeps the canonical form. -/
theorem Memory.wf_write (m : Memory) (a : Nat) (b : Byte) (h : m.wf = true) (ha : a < Config.memSize) :
    (m.write a b).wf = true := by
  unfold Memory.write
  have hf := Memory.wfFrom_filter m (fun c => c.1 != a) 0 h
  by_cases hb : b = Memory.unlisted a
  · simp only [hb, if_true]; exact hf
  · simp only [hb, if_false]
    exact Memory.wfFrom_insertCell _ a b 0 hf (Nat.zero_le _) ha hb (by simp)

/-- A run of writes inside `MEM` keeps the canonical form. -/
theorem Memory.wf_writeBytes (bs : List Byte) (m : Memory) (a : Nat) (h : m.wf = true)
    (ha : a + bs.length ≤ Config.memSize) : (m.writeBytes a bs).wf = true := by
  induction bs generalizing m a with
  | nil => exact h
  | cons b bs ih =>
    simp only [List.length_cons] at ha
    exact ih _ _ (Memory.wf_write m a b h (by omega)) (by omega)

/-- Writing what an empty memory reads as anyway lists nothing. -/
theorem Memory.writeBytes_unlisted (bs : List Byte) (a : Nat)
    (h : ∀ k < bs.length, bs.getD k 0#8 = Memory.unlisted (a + k)) : Memory.writeBytes [] a bs = [] := by
  induction bs generalizing a with
  | nil => rfl
  | cons b bs ih =>
    have h0 : b = Memory.unlisted a := by simpa using h 0 (by simp)
    have hw : Memory.write [] a b = [] := by simp [Memory.write, h0]
    simp only [Memory.writeBytes, hw]
    exact ih _ fun k hk => by
      have := h (k + 1) (by simp; omega)
      rwa [List.getD_cons_succ, show a + (k + 1) = a + 1 + k by omega] at this

/-- The memory of the reset state is canonical. -/
theorem State.reset_mem_wf : State.reset.mem.wf = true := rfl

/-- A checked write keeps the canonical form. -/
theorem State.memWrite_wf {s t : State} {a : Nat} {b : Byte} (hs : s.mem.wf = true)
    (h : s.memWrite a b = .ok t) : t.mem.wf = true := by
  unfold State.memWrite memAddr at h
  split at h
  · rename_i k hk
    split at hk
    · cases hk
    · injection hk with hk
      injection h with h
      subst h hk
      exact Memory.wf_write s.mem a b hs (by show a < 4096; omega)
  · cases h

/-- The host's placement of a word keeps the canonical form. -/
theorem State.placeWord_wf {s : State} (op : Word) (hs : s.mem.wf = true)
    (hp : s.pc.toNat + 1 ≤ 0xFFF) : (s.placeWord op).mem.wf = true :=
  Memory.wf_writeBytes _ _ _ hs (by show s.pc.toNat + 2 ≤ 4096; omega)

/-! ### Checked accesses -/

theorem memAddr_ok {a : Nat} (h : a ≤ 0xFFF) : memAddr a = .ok a := by
  simp [memAddr, show ¬ a > 0xFFF by omega]

theorem memAddr_error {a : Nat} (h : 0xFFF < a) : memAddr a = .error a := by
  simp [memAddr, h]

theorem State.memRead_ok (s : State) {a : Nat} (h : a ≤ 0xFFF) : s.memRead a = .ok (s.mem.read a) := by
  simp [State.memRead, memAddr_ok h]

theorem State.memRead_error (s : State) {a : Nat} (h : 0xFFF < a) : s.memRead a = .error a := by
  simp [State.memRead, memAddr_error h]

/-- A fetch inside `MEM` joins the two bytes big-endian (R82). -/
theorem State.fetch_ok (s : State) (h : s.pc.toNat + 1 ≤ 0xFFF) :
    s.fetch = .ok (joinBytes (s.mem.read s.pc.toNat) (s.mem.read (s.pc.toNat + 1))) := by
  simp [State.fetch, State.memRead_ok s h, State.memRead_ok s (show s.pc.toNat ≤ 0xFFF by omega)]

/-- A fetch that leaves `MEM` names its first address above 0xFFF (R82, C2). -/
theorem State.fetch_error (s : State) (h : 0xFFF < s.pc.toNat + 1) :
    s.fetch = .error (max s.pc.toNat 0x1000) := by
  by_cases h1 : 0xFFF < s.pc.toNat
  · simp [State.fetch, State.memRead_error s h1]; omega
  · simp [State.fetch, State.memRead_ok s (show s.pc.toNat ≤ 0xFFF by omega), State.memRead_error s h]; omega

theorem rangeFault_none_iff (a len : Nat) : rangeFault a len = none ↔ len = 0 ∨ a + len ≤ 0x1000 := by
  unfold rangeFault
  split <;> simp <;> omega

theorem rangeFault_some {a len bad : Nat} (h : rangeFault a len = some bad) :
    bad = max a 0x1000 ∧ 0 < len ∧ 0x1000 < a + len := by
  unfold rangeFault at h
  split at h
  · exact ⟨by simpa using h.symm, by omega, by omega⟩
  · cases h

end Sys2Proof.Machine
end

