-- ==== Sys2Proof/Laws/Ops.lean ====
section
/-! SUPPORT. One lemma per shared operation, saying what it does, and the inversion of the execute stage. -/

namespace Sys2Proof.Machine

/-! ### Skip, stack, registers -/

/-- `skipIf` writes `PC` and nothing else. -/
theorem State.skipIf_eq (s : State) (c : Bool) :
    s.skipIf c = s.setPc (if c then s.pc + 2#16 else s.pc) := by
  cases c <;> rfl

/-- `StkWrite` writes `STK` and nothing else. -/
theorem State.stkWrite_eq (s : State) (p : Byte) (w : Word) :
    s.stkWrite p w = s.setStk (if h : p.toNat < 16 then s.stk.set p.toNat w else s.stk) := by
  unfold State.stkWrite
  split <;> rfl

/-- The slots after `StkWrite`: the named one, if it exists. -/
theorem State.stkWrite_slot (s : State) (p : Byte) (w : Word) (k : Fin 16) :
    (s.stkWrite p w).stk[k] = if k.val = p.toNat then w else s.stk[k] := by
  rw [State.stkWrite_eq]
  simp only [State.setStk_stk, Fin.getElem_fin]
  split
  · rw [Vector.getElem_set]
    exact if_congr eq_comm rfl rfl
  · rename_i h
    rw [if_neg (by have := k.isLt; omega)]

theorem State.stkRead_some (s : State) (p : Byte) (h : p.toNat < 16) :
    s.stkRead p = some s.stk[p.toNat] := by
  simp [State.stkRead, h]

theorem State.stkRead_none (s : State) (p : Byte) (h : 16 ≤ p.toNat) : s.stkRead p = none := by
  simp [State.stkRead, show ¬ p.toNat < 16 by omega]

theorem regsUpTo_eq (x : RegIx) : regsUpTo x = (List.finRange 16).filter (fun k => decide (k ≤ x)) := rfl

theorem mem_regsUpTo (x k : RegIx) : k ∈ regsUpTo x ↔ k ≤ x := by
  simp [regsUpTo]

/-- `0..x` in order: the element at place `n` is register `n`. -/
theorem regsUpTo_getElem? (x k : RegIx) (h : k ≤ x) : (regsUpTo x)[k.val]? = some k := by
  revert x k; decide

theorem regsUpTo_length (x : RegIx) : (regsUpTo x).length = x.val + 1 := by
  revert x; decide

theorem State.regBytes_length (s : State) (x : RegIx) : (s.regBytes x).length = x.val + 1 := by
  simp [State.regBytes, regsUpTo_length]

theorem State.regBytes_getD (s : State) (x k : RegIx) (h : k ≤ x) :
    (s.regBytes x).getD k.val 0#8 = s.getV k := by
  simp [State.regBytes, List.getD_eq_getElem?_getD, regsUpTo_getElem? x k h]

theorem bcdDigits_length (b : Byte) : (bcdDigits b).length = 3 := rfl

/-- Registers written one after another from values that do not depend on the registers. -/
theorem foldl_setV (f : RegIx → Byte) (l : List RegIx) (s : State) :
    (∀ k, (l.foldl (fun t k => t.setV k (f k)) s).getV k = if k ∈ l then f k else s.getV k) ∧
      ∃ v, l.foldl (fun t k => t.setV k (f k)) s = { s with v := v } := by
  induction l generalizing s with
  | nil => exact ⟨fun k => by simp, s.v, rfl⟩
  | cons a l ih =>
    obtain ⟨h, v, hv⟩ := ih (s.setV a (f a))
    refine ⟨fun k => ?_, v, hv⟩
    rw [List.foldl_cons, h k, State.getV_setV]
    by_cases hk : k ∈ l
    · simp [hk]
    · by_cases ha : k = a
      · subst ha; simp
      · simp [hk, ha]

/-- The registers after `FX65`'s loads. -/
theorem State.loadRegs_getV (s : State) (x k : RegIx) :
    (s.loadRegs x).getV k = if k ≤ x then s.mem.read (s.i.toNat + k.val) else s.getV k := by
  have h := (foldl_setV (fun k => s.mem.read (s.ea k.val)) (regsUpTo x) s).1 k
  simp only [mem_regsUpTo] at h
  exact h

/-- `FX65`'s loads write the registers and nothing else. -/
theorem State.loadRegs_eq (s : State) (x : RegIx) : ∃ v, s.loadRegs x = { s with v := v } :=
  (foldl_setV (fun k => s.mem.read (s.ea k.val)) (regsUpTo x) s).2

/-! ### Flagged arithmetic -/

/-- Flag first, result second: each register afterwards. -/
theorem State.writeFlagResult_getV (s : State) (x k : RegIx) (f r : Byte) :
    (s.writeFlagResult x f r).getV k = if k = x then r else if k = VF then f else s.getV k := by
  simp only [State.writeFlagResult, State.getV_setV]

/-- What a flag-writing row can answer: the two writes in order, or the refusal of an aliased form. -/
theorem State.aluFlagged_cases (s : State) (al : Bool) (x y : RegIx) (fl : Byte → Byte → Bool)
    (rs : Byte → Byte → Byte) :
    (∃ r, s.aluFlagged al x y fl rs =
        .next (s.writeFlagResult x (flagByte (fl (s.getV x) (s.getV y))) r) ∧
        (s.cfg.vfAlias ≠ .sequential → r = rs (s.getV x) (s.getV y)) ∧
        (s.cfg.vfAlias = .sequential →
          r = rs (if x = VF then flagByte (fl (s.getV x) (s.getV y)) else s.getV x)
            (if y = VF then flagByte (fl (s.getV x) (s.getV y)) else s.getV y))) ∨
      (s.cfg.vfAlias = .refuse ∧ al = true ∧ s.aluFlagged al x y fl rs = .refused .vfAliased) := by
  unfold State.aluFlagged
  cases h : s.cfg.vfAlias
  · exact .inl ⟨_, rfl, fun _ => rfl, fun e => by cases e⟩
  · refine .inl ⟨_, rfl, fun e => absurd rfl e, fun _ => ?_⟩
    simp only [State.getV_setV]
  · cases al
    · exact .inl ⟨_, rfl, fun _ => rfl, fun e => by cases e⟩
    · exact .inr ⟨rfl, rfl, rfl⟩

/-! ### Scheduler and reset -/

theorem countDown_toNat (b : Byte) : (countDown b).toNat = b.toNat - 1 := by
  unfold countDown
  split
  · rename_i h; simp [h]
  · rename_i h
    have h1 : b.toNat ≠ 0 := fun e => h (BitVec.eq_of_toNat_eq (by simpa using e))
    have := b.isLt
    rw [BitVec.toNat_sub]
    simp only [BitVec.toNat_ofNat]
    omega

/-- What `SchedulerCount` does: `CYC` in both cases, the timers and the strobe at a tick. -/
theorem State.schedulerCount_eq (s : State) :
    s.schedulerCount =
      if s.cyc + 1 = s.cfg.tickDiv then
        { s with cyc := 0, dt := countDown s.dt, st := countDown s.st, refresh := true }
      else { s with cyc := s.cyc + 1 } := rfl

/-- `CYC` stays below `TICK_DIV`. -/
theorem State.schedulerCount_cyc_lt (s : State) (h : s.cyc < s.cfg.tickDiv) :
    s.schedulerCount.cyc < s.cfg.tickDiv := by
  rw [State.schedulerCount_eq]
  split
  · show 0 < s.cfg.tickDiv; omega
  · show s.cyc + 1 < s.cfg.tickDiv; omega

/-- The end of a cycle changes only the timers, `CYC`, `refresh` and the inputs. -/
theorem State.endCycle_frame (s : State) : ChangesOnly [.dt, .st, .cyc, .refresh, .inputs] s s.endCycle := by
  intro p hp
  unfold State.endCycle
  rw [State.schedulerCount_eq]
  cases p <;> simp_all [Part.Same] <;> (try intros) <;> split <;> (try split) <;> rfl

/-- The halted core keeps the whole state but the inputs and `refresh`, or stops. -/
theorem State.haltedCycle_cases (s : State) (r : FaultRecord) :
    (s.inputs = [] ∧ s.haltedCycle r = .fault (.halted r)) ∨
      (s.inputs ≠ [] ∧ s.haltedCycle r = .next s.beginCycle.consumeInput) := by
  unfold State.haltedCycle
  cases h : s.inputs
  · exact .inl ⟨rfl, rfl⟩
  · exact .inr ⟨by simp, rfl⟩

/-! ### Inversion of the execute stage -/

/-- What the execute stage can do, seen from the scheduler: it never touches `CYC`, `refresh`, the parameters
or the inputs, and it keeps `MEM` canonical; either it raises no fault, or it took one and changed nothing else. -/
theorem exec_cases {j : Instr} {s t : State} (h : exec j s = .next t) :
    t.cyc = s.cyc ∧ t.refresh = s.refresh ∧ t.cfg = s.cfg ∧ t.inputs = s.inputs ∧
      t.inputCount = s.inputCount ∧ (s.mem.wf = true → t.mem.wf = true) ∧
      (t.fault = s.fault ∨
        ∃ k a, t = s.execFault j k a ∧
          ((k = .outOfRangeAddress ∧ 0xFFF < a) ∨ (k = .stackOutOfRange ∧ j = .ret ∧ 15 < a))) := by
  have hrange : ∀ {a len bad : Nat}, rangeFault a len = some bad → 0xFFF < bad := by
    intro a len bad hb
    have := (rangeFault_some hb).1
    omega
  have hflag : ∀ {al x y fl rs}, s.aluFlagged al x y fl rs = .next t →
      t.cyc = s.cyc ∧ t.refresh = s.refresh ∧ t.cfg = s.cfg ∧ t.inputs = s.inputs ∧
        t.inputCount = s.inputCount ∧ (s.mem.wf = true → t.mem.wf = true) ∧
        (t.fault = s.fault ∨ ∃ k a, t = s.execFault j k a ∧
          ((k = .outOfRangeAddress ∧ 0xFFF < a) ∨ (k = .stackOutOfRange ∧ j = .ret ∧ 15 < a))) := by
    intro al x y fl rs hf
    obtain ⟨r, hr, -, -⟩ | ⟨-, -, hr⟩ := s.aluFlagged_cases al x y fl rs
    · rw [hr] at hf
      injection hf with hf
      subst hf
      exact ⟨rfl, rfl, rfl, rfl, rfl, id, .inl rfl⟩
    · rw [hr] at hf; cases hf
  cases j with
  | subVxVy x y =>
    simp only [exec, execSubVxVy] at h
    exact hflag h
  | shrVx x y =>
    simp only [exec, execShrVx] at h
    exact hflag h
  | subnVxVy x y =>
    simp only [exec, execSubnVxVy] at h
    exact hflag h
  | shlVx x y =>
    simp only [exec, execShlVx] at h
    exact hflag h
  | ret =>
    simp only [exec, execRet] at h
    split at h
    · injection h with h; subst h
      exact ⟨rfl, rfl, rfl, rfl, rfl, id, .inl rfl⟩
    · rename_i hs
      injection h with h; subst h
      refine ⟨rfl, rfl, rfl, rfl, rfl, id, .inr ⟨_, _, rfl, .inr ⟨rfl, rfl, ?_⟩⟩⟩
      by_contra hlt
      rw [State.stkRead_some s s.sp (by omega)] at hs
      cases hs
  | call nnn =>
    simp only [exec, execCall, State.stkWrite_eq] at h
    injection h with h; subst h
    exact ⟨rfl, rfl, rfl, rfl, rfl, id, .inl rfl⟩
  | seVxKk x kk =>
    simp only [exec, execSeVxKk, State.skipIf_eq] at h
    injection h with h; subst h
    exact ⟨rfl, rfl, rfl, rfl, rfl, id, .inl rfl⟩
  | sneVxKk x kk =>
    simp only [exec, execSneVxKk, State.skipIf_eq] at h
    injection h with h; subst h
    exact ⟨rfl, rfl, rfl, rfl, rfl, id, .inl rfl⟩
  | seVxVy x y =>
    simp only [exec, execSeVxVy, State.skipIf_eq] at h
    injection h with h; subst h
    exact ⟨rfl, rfl, rfl, rfl, rfl, id, .inl rfl⟩
  | sneVxVy x y =>
    simp only [exec, execSneVxVy, State.skipIf_eq] at h
    injection h with h; subst h
    exact ⟨rfl, rfl, rfl, rfl, rfl, id, .inl rfl⟩
  | skp x =>
    simp only [exec, execSkp, State.skipIf_eq] at h
    injection h with h; subst h
    exact ⟨rfl, rfl, rfl, rfl, rfl, id, .inl rfl⟩
  | sknp x =>
    simp only [exec, execSknp, State.skipIf_eq] at h
    injection h with h; subst h
    exact ⟨rfl, rfl, rfl, rfl, rfl, id, .inl rfl⟩
  | ldVxK x =>
    simp only [exec, execLdVxK] at h
    injection h with h; subst h
    split <;> exact ⟨rfl, rfl, rfl, rfl, rfl, id, .inl rfl⟩
  | drw x y n =>
    simp only [exec, execDrw] at h
    split at h
    · rename_i bad hb
      injection h with h; subst h
      exact ⟨rfl, rfl, rfl, rfl, rfl, id, .inr ⟨_, _, rfl, .inl ⟨rfl, hrange hb⟩⟩⟩
    · injection h with h; subst h
      exact ⟨rfl, rfl, rfl, rfl, rfl, id, .inl rfl⟩
  | ldBVx x =>
    simp only [exec, execLdBVx] at h
    split at h
    · rename_i bad hb
      injection h with h; subst h
      exact ⟨rfl, rfl, rfl, rfl, rfl, id, .inr ⟨_, _, rfl, .inl ⟨rfl, hrange hb⟩⟩⟩
    · rename_i hb
      injection h with h; subst h
      refine ⟨rfl, rfl, rfl, rfl, rfl, fun w => ?_, .inl rfl⟩
      exact Memory.wf_writeBytes _ _ _ w (by
        have := (rangeFault_none_iff _ _).1 hb
        rw [bcdDigits_length]; show _ ≤ 4096; omega)
  | ldMemIVx x =>
    simp only [exec, execLdMemIVx] at h
    split at h
    · rename_i bad hb
      injection h with h; subst h
      exact ⟨rfl, rfl, rfl, rfl, rfl, id, .inr ⟨_, _, rfl, .inl ⟨rfl, hrange hb⟩⟩⟩
    · rename_i hb
      injection h with h; subst h
      refine ⟨rfl, rfl, rfl, rfl, rfl, fun w => ?_, .inl rfl⟩
      exact Memory.wf_writeBytes _ _ _ w (by
        have := (rangeFault_none_iff _ _).1 hb
        rw [State.regBytes_length]; show _ ≤ 4096; omega)
  | ldVxMemI x =>
    simp only [exec, execLdVxMemI] at h
    split at h
    · rename_i bad hb
      injection h with h; subst h
      exact ⟨rfl, rfl, rfl, rfl, rfl, id, .inr ⟨_, _, rfl, .inl ⟨rfl, hrange hb⟩⟩⟩
    · injection h with h; subst h
      obtain ⟨v, hv⟩ := s.loadRegs_eq x
      rw [hv]
      exact ⟨rfl, rfl, rfl, rfl, rfl, id, .inl rfl⟩
  | _ =>
    injection h with h
    subst h
    exact ⟨rfl, rfl, rfl, rfl, rfl, id, .inl rfl⟩

/-- The execute stage never stops the machine, and refuses only aliased forms under `refuse` (R120). -/
theorem exec_answers (j : Instr) (s : State) :
    (∃ t, exec j s = .next t) ∨ (s.cfg.vfAlias = .refuse ∧ exec j s = .refused .vfAliased) := by
  have hflag : ∀ al x y fl rs, (∃ t, s.aluFlagged al x y fl rs = .next t) ∨
      (s.cfg.vfAlias = .refuse ∧ s.aluFlagged al x y fl rs = .refused .vfAliased) := by
    intro al x y fl rs
    obtain ⟨r, hr, -, -⟩ | ⟨h1, -, hr⟩ := s.aluFlagged_cases al x y fl rs
    · exact .inl ⟨_, hr⟩
    · exact .inr ⟨h1, hr⟩
  cases j with
  | subVxVy x y => simp only [exec, execSubVxVy]; exact hflag _ _ _ _ _
  | shrVx x y => simp only [exec, execShrVx]; exact hflag _ _ _ _ _
  | subnVxVy x y => simp only [exec, execSubnVxVy]; exact hflag _ _ _ _ _
  | shlVx x y => simp only [exec, execShlVx]; exact hflag _ _ _ _ _
  | ret =>
    simp only [exec, execRet]
    split <;> exact .inl ⟨_, rfl⟩
  | drw x y n =>
    simp only [exec, execDrw]
    split <;> exact .inl ⟨_, rfl⟩
  | ldBVx x =>
    simp only [exec, execLdBVx]
    split <;> exact .inl ⟨_, rfl⟩
  | ldMemIVx x =>
    simp only [exec, execLdMemIVx]
    split <;> exact .inl ⟨_, rfl⟩
  | ldVxMemI x =>
    simp only [exec, execLdVxMemI]
    split <;> exact .inl ⟨_, rfl⟩
  | _ => exact .inl ⟨_, rfl⟩

end Sys2Proof.Machine
end

