-- ==== Sys2Proof/Laws/Frame.lean ====
section
/-! SUPPORT. Frames: what each update and each shared operation leaves unchanged, in the terms of Safety.lean. -/

namespace Sys2Proof.Machine

theorem Part.Same.refl (p : Part) (s : State) : p.Same s s := by
  cases p <;> simp [Part.Same]

theorem Part.Same.trans {p : Part} {s t u : State} (h : p.Same s t) (g : p.Same t u) : p.Same s u := by
  cases p <;> simp_all [Part.Same]

theorem Part.Same.symm {p : Part} {s t : State} (h : p.Same s t) : p.Same t s := by
  cases p <;> simp_all [Part.Same]

theorem ChangesOnly.refl (ps : List Part) (s : State) : ChangesOnly ps s s := fun p _ => Part.Same.refl p s

theorem ChangesOnly.mono {ps qs : List Part} {s t : State} (h : ChangesOnly ps s t) (hs : ps ⊆ qs) :
    ChangesOnly qs s t := fun p hp => h p fun hm => hp (hs hm)

theorem ChangesOnly.trans {ps : List Part} {s t u : State} (h : ChangesOnly ps s t) (g : ChangesOnly ps t u) :
    ChangesOnly ps s u := fun p hp => (h p hp).trans (g p hp)

/-- Two frames in a row. -/
theorem ChangesOnly.append {ps qs : List Part} {s t u : State} (h : ChangesOnly ps s t)
    (g : ChangesOnly qs t u) : ChangesOnly (ps ++ qs) s u :=
  (h.mono (List.subset_append_left ps qs)).trans (g.mono (List.subset_append_right ps qs))

/-! ### One update -/

theorem changesOnly_setV (s : State) (x : RegIx) (b : Byte) : ChangesOnly [.regs] s (s.setV x b) := by
  intro p hp; cases p <;> first | exact absurd (List.mem_singleton.2 rfl) hp | simp [Part.Same]

theorem regsKept_setV (s : State) (x : RegIx) (b : Byte) : RegsKept [x] s (s.setV x b) := fun k hk =>
  State.getV_setV_ne s b (by simpa using hk)

theorem changesOnly_setI (s : State) (w : Word) : ChangesOnly [.index] s (s.setI w) := by
  intro p hp; cases p <;> first | exact absurd (List.mem_singleton.2 rfl) hp | simp [Part.Same]

theorem changesOnly_setPc (s : State) (w : Word) : ChangesOnly [.pc] s (s.setPc w) := by
  intro p hp; cases p <;> first | exact absurd (List.mem_singleton.2 rfl) hp | simp [Part.Same]

theorem changesOnly_setSp (s : State) (b : Byte) : ChangesOnly [.sp] s (s.setSp b) := by
  intro p hp; cases p <;> first | exact absurd (List.mem_singleton.2 rfl) hp | simp [Part.Same]

theorem changesOnly_setDt (s : State) (b : Byte) : ChangesOnly [.dt] s (s.setDt b) := by
  intro p hp; cases p <;> first | exact absurd (List.mem_singleton.2 rfl) hp | simp [Part.Same]

theorem changesOnly_setSt (s : State) (b : Byte) : ChangesOnly [.st] s (s.setSt b) := by
  intro p hp; cases p <;> first | exact absurd (List.mem_singleton.2 rfl) hp | simp [Part.Same]

theorem changesOnly_setMode (s : State) (m : Mode) : ChangesOnly [.mode] s (s.setMode m) := by
  intro p hp; cases p <;> first | exact absurd (List.mem_singleton.2 rfl) hp | simp [Part.Same]

theorem changesOnly_setCyc (s : State) (n : Nat) : ChangesOnly [.cyc] s (s.setCyc n) := by
  intro p hp; cases p <;> first | exact absurd (List.mem_singleton.2 rfl) hp | simp [Part.Same]

theorem changesOnly_setMem (s : State) (m : Memory) : ChangesOnly [.mem] s (s.setMem m) := by
  intro p hp; cases p <;> first | exact absurd (List.mem_singleton.2 rfl) hp | simp [Part.Same]

theorem changesOnly_setStk (s : State) (z : Stack) : ChangesOnly [.stk] s (s.setStk z) := by
  intro p hp; cases p <;> first | exact absurd (List.mem_singleton.2 rfl) hp | simp [Part.Same]

theorem changesOnly_setFb (s : State) (f : Framebuffer) : ChangesOnly [.fb] s (s.setFb f) := by
  intro p hp; cases p <;> first | exact absurd (List.mem_singleton.2 rfl) hp | simp [Part.Same]

theorem changesOnly_setRefresh (s : State) (b : Bool) : ChangesOnly [.refresh] s (s.setRefresh b) := by
  intro p hp; cases p <;> first | exact absurd (List.mem_singleton.2 rfl) hp | simp [Part.Same]

theorem changesOnly_setFault (s : State) (r : Option FaultRecord) : ChangesOnly [.fault] s (s.setFault r) := by
  intro p hp; cases p <;> first | exact absurd (List.mem_singleton.2 rfl) hp | simp [Part.Same]

theorem changesOnly_consumeInput (s : State) : ChangesOnly [.inputs] s s.consumeInput := by
  intro p hp; cases p <;> first | exact absurd (List.mem_singleton.2 rfl) hp | simp [Part.Same, State.pixel]

/-- A state that differs in the register vector alone. -/
theorem changesOnly_regs (s : State) (v : Vector Byte 16) : ChangesOnly [.regs] s { s with v := v } := by
  intro p hp; cases p <;> first | exact absurd (List.mem_singleton.2 rfl) hp | simp [Part.Same, State.pixel]

/-! ### Shared operations -/

theorem changesOnly_skipIf (s : State) (c : Bool) : ChangesOnly [.pc] s (s.skipIf c) := by
  rw [State.skipIf_eq]; exact changesOnly_setPc s _

theorem changesOnly_stkWrite (s : State) (p : Byte) (w : Word) : ChangesOnly [.stk] s (s.stkWrite p w) := by
  rw [State.stkWrite_eq]; exact changesOnly_setStk s _

theorem changesOnly_execFault (s : State) (i : Instr) (k : FaultKind) (a : Nat) :
    ChangesOnly [.fault] s (s.execFault i k a) := changesOnly_setFault s _

theorem changesOnly_writeFlagResult (s : State) (x : RegIx) (f r : Byte) :
    ChangesOnly [.regs] s (s.writeFlagResult x f r) :=
  (changesOnly_setV s VF f).trans (changesOnly_setV _ x r)

theorem regsKept_writeFlagResult (s : State) (x : RegIx) (f r : Byte) :
    RegsKept [x, VF] s (s.writeFlagResult x f r) := by
  intro k hk
  simp only [List.mem_cons, List.not_mem_nil, or_false, not_or] at hk
  rw [State.writeFlagResult_getV, if_neg hk.1, if_neg hk.2]

theorem changesOnly_loadRegs (s : State) (x : RegIx) : ChangesOnly [.regs] s (s.loadRegs x) := by
  obtain ⟨v, hv⟩ := s.loadRegs_eq x
  rw [hv]; exact changesOnly_regs s v

/-- A run of stores leaves every byte outside it. -/
theorem memKeptOutside_writeBytes (s : State) (a : Nat) (bs : List Byte) :
    MemKeptOutside a bs.length s (s.setMem (s.mem.writeBytes a bs)) := by
  intro c hc
  rw [State.setMem_mem, Memory.read_writeBytes, if_neg hc]

/-! ### Every instruction -/

/-- The parts of the state an instruction can write in its execute stage, the fault record included. -/
def writes : Instr → List Part
  | .cls => [.fb]
  | .ret => [.pc, .sp, .fault]
  | .call _ => [.pc, .sp, .stk]
  | .jp _ | .jpV0 _ => [.pc]
  | .seVxKk _ _ | .sneVxKk _ _ | .seVxVy _ _ | .sneVxVy _ _ | .skp _ | .sknp _ => [.pc]
  | .ldVxKk _ _ | .addVxKk _ _ | .ldVxVy _ _ | .orVxVy _ _ | .andVxVy _ _ | .xorVxVy _ _ => [.regs]
  | .addVxVy _ _ | .subVxVy _ _ | .shrVx _ _ | .subnVxVy _ _ | .shlVx _ _ | .rnd _ _ | .ldVxDt _ => [.regs]
  | .ldI _ | .addIVx _ | .ldFVx _ => [.index]
  | .drw _ _ _ => [.regs, .fb, .fault]
  | .ldVxK _ => [.regs, .mode]
  | .ldDtVx _ => [.dt]
  | .ldStVx _ => [.st]
  | .ldBVx _ | .ldMemIVx _ => [.mem, .fault]
  | .ldVxMemI _ => [.regs, .fault]

/-- The frame of a flag-writing row. -/
theorem changesOnly_aluFlagged {s t : State} {al : Bool} {x y : RegIx} {fl : Byte → Byte → Bool}
    {rs : Byte → Byte → Byte} (h : s.aluFlagged al x y fl rs = .next t) : ChangesOnly [.regs] s t := by
  obtain ⟨r, hr, -, -⟩ | ⟨-, -, hr⟩ := s.aluFlagged_cases al x y fl rs
  · rw [hr] at h
    injection h with h
    subst h
    exact changesOnly_writeFlagResult s x _ r
  · rw [hr] at h; cases h

/-- What an instruction does not write it leaves unchanged. -/
theorem exec_changesOnly {i : Instr} {s t : State} (h : exec i s = .next t) : ChangesOnly (writes i) s t := by
  cases i with
  | subVxVy x y => simp only [exec, execSubVxVy] at h; exact changesOnly_aluFlagged h
  | shrVx x y => simp only [exec, execShrVx] at h; exact changesOnly_aluFlagged h
  | subnVxVy x y => simp only [exec, execSubnVxVy] at h; exact changesOnly_aluFlagged h
  | shlVx x y => simp only [exec, execShlVx] at h; exact changesOnly_aluFlagged h
  | ret =>
    simp only [exec, execRet] at h
    split at h <;> injection h with h <;> subst h
    · exact ((changesOnly_setPc _ _).append (changesOnly_setSp _ _)).mono (by decide)
    · exact (changesOnly_execFault _ _ _ _).mono (by simp [writes])
  | call nnn =>
    injection h with h; subst h
    exact (((changesOnly_setSp _ _).append (changesOnly_stkWrite _ _ _)).append (changesOnly_setPc _ _)).mono
      (by simp [writes])
  | drw x y n =>
    simp only [exec, execDrw] at h
    split at h <;> injection h with h <;> subst h
    · exact (changesOnly_execFault _ _ _ _).mono (by simp [writes])
    · exact ((changesOnly_setFb _ _).append (changesOnly_setV _ _ _)).mono (by simp [writes])
  | ldVxK x =>
    simp only [exec, execLdVxK] at h
    injection h with h; subst h
    split
    · exact (changesOnly_setV _ _ _).mono (by simp [writes])
    · exact (changesOnly_setMode _ _).mono (by simp [writes])
  | ldBVx x =>
    simp only [exec, execLdBVx] at h
    split at h <;> injection h with h <;> subst h
    · exact (changesOnly_execFault _ _ _ _).mono (by simp [writes])
    · exact (changesOnly_setMem _ _).mono (by simp [writes])
  | ldMemIVx x =>
    simp only [exec, execLdMemIVx] at h
    split at h <;> injection h with h <;> subst h
    · exact (changesOnly_execFault _ _ _ _).mono (by simp [writes])
    · exact (changesOnly_setMem _ _).mono (by simp [writes])
  | ldVxMemI x =>
    simp only [exec, execLdVxMemI] at h
    split at h <;> injection h with h <;> subst h
    · exact (changesOnly_execFault _ _ _ _).mono (by simp [writes])
    · exact (changesOnly_loadRegs _ _).mono (by simp [writes])
  | seVxKk x kk => injection h with h; subst h; exact changesOnly_skipIf _ _
  | sneVxKk x kk => injection h with h; subst h; exact changesOnly_skipIf _ _
  | seVxVy x y => injection h with h; subst h; exact changesOnly_skipIf _ _
  | sneVxVy x y => injection h with h; subst h; exact changesOnly_skipIf _ _
  | skp x => injection h with h; subst h; exact changesOnly_skipIf _ _
  | sknp x => injection h with h; subst h; exact changesOnly_skipIf _ _
  | addVxVy x y => injection h with h; subst h; exact changesOnly_writeFlagResult _ _ _ _
  | cls => injection h with h; subst h; exact changesOnly_setFb _ _
  | jp nnn => injection h with h; subst h; exact changesOnly_setPc _ _
  | jpV0 nnn => injection h with h; subst h; exact changesOnly_setPc _ _
  | ldI nnn => injection h with h; subst h; exact changesOnly_setI _ _
  | addIVx x => injection h with h; subst h; exact changesOnly_setI _ _
  | ldFVx x => injection h with h; subst h; exact changesOnly_setI _ _
  | ldDtVx x => injection h with h; subst h; exact changesOnly_setDt _ _
  | ldStVx x => injection h with h; subst h; exact changesOnly_setSt _ _
  | _ => injection h with h; subst h; exact changesOnly_setV _ _ _

end Sys2Proof.Machine
end

