-- ==== Sys2Proof/Laws/PerInstr.lean ====
section
/-! SUPPORT. Statements about every instruction as syntax, one lemma per constructor. Family `EncodeRow`: the word
of an instruction is a word of the row of 30_encoding.md R87 that bears its name, by that row's mask and match. -/

namespace Sys2Proof

theorem packNnn_and_F000 (g : BitVec 4) (a : BitVec 12) : packNnn g a &&& 0xF000#16 = g ++ 0x000#12 := by
  rw [show (0xF000#16 : Word) = 0xF#4 ++ 0x000#12 by decide]
  unfold packNnn
  rw [BitVec.and_append, show (0xF#4 : BitVec 4) = BitVec.allOnes 4 by decide, BitVec.and_allOnes, BitVec.and_zero]

theorem packXKk_and_F000 (g : BitVec 4) (x : RegIx) (kk : Byte) :
    packXKk g x kk &&& 0xF000#16 = g ++ 0x0#4 ++ 0x00#8 := by
  rw [show (0xF000#16 : Word) = (0xF#4 ++ 0x0#4) ++ 0x00#8 by decide]
  unfold packXKk
  rw [BitVec.and_append, BitVec.and_append, show (0xF#4 : BitVec 4) = BitVec.allOnes 4 by decide,
    BitVec.and_allOnes, BitVec.and_zero, BitVec.and_zero]

theorem packXKk_and_F0FF (g : BitVec 4) (x : RegIx) (kk : Byte) :
    packXKk g x kk &&& 0xF0FF#16 = g ++ 0x0#4 ++ kk := by
  rw [show (0xF0FF#16 : Word) = (0xF#4 ++ 0x0#4) ++ 0xFF#8 by decide]
  unfold packXKk
  rw [BitVec.and_append, BitVec.and_append, show (0xF#4 : BitVec 4) = BitVec.allOnes 4 by decide,
    show (0xFF#8 : BitVec 8) = BitVec.allOnes 8 by decide, BitVec.and_allOnes, BitVec.and_allOnes, BitVec.and_zero]

theorem packXYN_and_F000 (g : BitVec 4) (x y : RegIx) (n : BitVec 4) :
    packXYN g x y n &&& 0xF000#16 = g ++ 0x0#4 ++ (0x0#4 ++ 0x0#4) := by
  rw [show (0xF000#16 : Word) = (0xF#4 ++ 0x0#4) ++ (0x0#4 ++ 0x0#4) by decide]
  unfold packXYN
  rw [BitVec.and_append, BitVec.and_append, BitVec.and_append,
    show (0xF#4 : BitVec 4) = BitVec.allOnes 4 by decide, BitVec.and_allOnes, BitVec.and_zero, BitVec.and_zero,
    BitVec.and_zero]

theorem packXYN_and_F00F (g : BitVec 4) (x y : RegIx) (n : BitVec 4) :
    packXYN g x y n &&& 0xF00F#16 = g ++ 0x0#4 ++ (0x0#4 ++ n) := by
  rw [show (0xF00F#16 : Word) = (0xF#4 ++ 0x0#4) ++ (0x0#4 ++ 0xF#4) by decide]
  unfold packXYN
  rw [BitVec.and_append, BitVec.and_append, BitVec.and_append,
    show (0xF#4 : BitVec 4) = BitVec.allOnes 4 by decide, BitVec.and_allOnes, BitVec.and_allOnes, BitVec.and_zero,
    BitVec.and_zero]

end Sys2Proof

namespace Sys2Proof.Laws.EncodeRow

/-- The word of the instruction matches the opcode-map row of its name. -/
def Statement (i : Instr) : Prop :=
  ∃ row ∈ opcodeMap, row.mnemonic = i.mnemonic ∧ encode i &&& row.mask = row.pattern

theorem cls : Statement .cls :=
  ⟨⟨"CLS", 0xFFFF#16, 0x00E0#16⟩, by decide, rfl, by decide⟩

theorem ret : Statement .ret :=
  ⟨⟨"RET", 0xFFFF#16, 0x00EE#16⟩, by decide, rfl, by decide⟩

theorem jp (nnn : BitVec 12) : Statement (.jp nnn) :=
  ⟨⟨"JP_nnn", 0xF000#16, 0x1000#16⟩, by decide, rfl, (packNnn_and_F000 _ _).trans (by decide)⟩

theorem call (nnn : BitVec 12) : Statement (.call nnn) :=
  ⟨⟨"CALL_nnn", 0xF000#16, 0x2000#16⟩, by decide, rfl, (packNnn_and_F000 _ _).trans (by decide)⟩

theorem seVxKk (x : RegIx) (kk : Byte) : Statement (.seVxKk x kk) :=
  ⟨⟨"SE_Vx_kk", 0xF000#16, 0x3000#16⟩, by decide, rfl, (packXKk_and_F000 _ _ _).trans (by decide)⟩

theorem sneVxKk (x : RegIx) (kk : Byte) : Statement (.sneVxKk x kk) :=
  ⟨⟨"SNE_Vx_kk", 0xF000#16, 0x4000#16⟩, by decide, rfl, (packXKk_and_F000 _ _ _).trans (by decide)⟩

theorem seVxVy (x y : RegIx) : Statement (.seVxVy x y) :=
  ⟨⟨"SE_Vx_Vy", 0xF00F#16, 0x5000#16⟩, by decide, rfl, (packXYN_and_F00F _ _ _ _).trans (by decide)⟩

theorem ldVxKk (x : RegIx) (kk : Byte) : Statement (.ldVxKk x kk) :=
  ⟨⟨"LD_Vx_kk", 0xF000#16, 0x6000#16⟩, by decide, rfl, (packXKk_and_F000 _ _ _).trans (by decide)⟩

theorem addVxKk (x : RegIx) (kk : Byte) : Statement (.addVxKk x kk) :=
  ⟨⟨"ADD_Vx_kk", 0xF000#16, 0x7000#16⟩, by decide, rfl, (packXKk_and_F000 _ _ _).trans (by decide)⟩

theorem ldVxVy (x y : RegIx) : Statement (.ldVxVy x y) :=
  ⟨⟨"LD_Vx_Vy", 0xF00F#16, 0x8000#16⟩, by decide, rfl, (packXYN_and_F00F _ _ _ _).trans (by decide)⟩

theorem orVxVy (x y : RegIx) : Statement (.orVxVy x y) :=
  ⟨⟨"OR_Vx_Vy", 0xF00F#16, 0x8001#16⟩, by decide, rfl, (packXYN_and_F00F _ _ _ _).trans (by decide)⟩

theorem andVxVy (x y : RegIx) : Statement (.andVxVy x y) :=
  ⟨⟨"AND_Vx_Vy", 0xF00F#16, 0x8002#16⟩, by decide, rfl, (packXYN_and_F00F _ _ _ _).trans (by decide)⟩

theorem xorVxVy (x y : RegIx) : Statement (.xorVxVy x y) :=
  ⟨⟨"XOR_Vx_Vy", 0xF00F#16, 0x8003#16⟩, by decide, rfl, (packXYN_and_F00F _ _ _ _).trans (by decide)⟩

theorem addVxVy (x y : RegIx) : Statement (.addVxVy x y) :=
  ⟨⟨"ADD_Vx_Vy", 0xF00F#16, 0x8004#16⟩, by decide, rfl, (packXYN_and_F00F _ _ _ _).trans (by decide)⟩

theorem subVxVy (x y : RegIx) : Statement (.subVxVy x y) :=
  ⟨⟨"SUB_Vx_Vy", 0xF00F#16, 0x8005#16⟩, by decide, rfl, (packXYN_and_F00F _ _ _ _).trans (by decide)⟩

theorem shrVx (x y : RegIx) : Statement (.shrVx x y) :=
  ⟨⟨"SHR_Vx", 0xF00F#16, 0x8006#16⟩, by decide, rfl, (packXYN_and_F00F _ _ _ _).trans (by decide)⟩

theorem subnVxVy (x y : RegIx) : Statement (.subnVxVy x y) :=
  ⟨⟨"SUBN_Vx_Vy", 0xF00F#16, 0x8007#16⟩, by decide, rfl, (packXYN_and_F00F _ _ _ _).trans (by decide)⟩

theorem shlVx (x y : RegIx) : Statement (.shlVx x y) :=
  ⟨⟨"SHL_Vx", 0xF00F#16, 0x800E#16⟩, by decide, rfl, (packXYN_and_F00F _ _ _ _).trans (by decide)⟩

theorem sneVxVy (x y : RegIx) : Statement (.sneVxVy x y) :=
  ⟨⟨"SNE_Vx_Vy", 0xF00F#16, 0x9000#16⟩, by decide, rfl, (packXYN_and_F00F _ _ _ _).trans (by decide)⟩

theorem ldI (nnn : BitVec 12) : Statement (.ldI nnn) :=
  ⟨⟨"LD_I_nnn", 0xF000#16, 0xA000#16⟩, by decide, rfl, (packNnn_and_F000 _ _).trans (by decide)⟩

theorem jpV0 (nnn : BitVec 12) : Statement (.jpV0 nnn) :=
  ⟨⟨"JP_V0_nnn", 0xF000#16, 0xB000#16⟩, by decide, rfl, (packNnn_and_F000 _ _).trans (by decide)⟩

theorem rnd (x : RegIx) (kk : Byte) : Statement (.rnd x kk) :=
  ⟨⟨"RND_Vx_kk", 0xF000#16, 0xC000#16⟩, by decide, rfl, (packXKk_and_F000 _ _ _).trans (by decide)⟩

theorem drw (x y : RegIx) (n : Nat) : Statement (.drw x y n) :=
  ⟨⟨"DRW_Vx_Vy_n", 0xF000#16, 0xD000#16⟩, by decide, rfl, (packXYN_and_F000 _ _ _ _).trans (by decide)⟩

theorem skp (x : RegIx) : Statement (.skp x) :=
  ⟨⟨"SKP_Vx", 0xF0FF#16, 0xE09E#16⟩, by decide, rfl, (packXKk_and_F0FF _ _ _).trans (by decide)⟩

theorem sknp (x : RegIx) : Statement (.sknp x) :=
  ⟨⟨"SKNP_Vx", 0xF0FF#16, 0xE0A1#16⟩, by decide, rfl, (packXKk_and_F0FF _ _ _).trans (by decide)⟩

theorem ldVxDt (x : RegIx) : Statement (.ldVxDt x) :=
  ⟨⟨"LD_Vx_DT", 0xF0FF#16, 0xF007#16⟩, by decide, rfl, (packXKk_and_F0FF _ _ _).trans (by decide)⟩

theorem ldVxK (x : RegIx) : Statement (.ldVxK x) :=
  ⟨⟨"LD_Vx_K", 0xF0FF#16, 0xF00A#16⟩, by decide, rfl, (packXKk_and_F0FF _ _ _).trans (by decide)⟩

theorem ldDtVx (x : RegIx) : Statement (.ldDtVx x) :=
  ⟨⟨"LD_DT_Vx", 0xF0FF#16, 0xF015#16⟩, by decide, rfl, (packXKk_and_F0FF _ _ _).trans (by decide)⟩

theorem ldStVx (x : RegIx) : Statement (.ldStVx x) :=
  ⟨⟨"LD_ST_Vx", 0xF0FF#16, 0xF018#16⟩, by decide, rfl, (packXKk_and_F0FF _ _ _).trans (by decide)⟩

theorem addIVx (x : RegIx) : Statement (.addIVx x) :=
  ⟨⟨"ADD_I_Vx", 0xF0FF#16, 0xF01E#16⟩, by decide, rfl, (packXKk_and_F0FF _ _ _).trans (by decide)⟩

theorem ldFVx (x : RegIx) : Statement (.ldFVx x) :=
  ⟨⟨"LD_F_Vx", 0xF0FF#16, 0xF029#16⟩, by decide, rfl, (packXKk_and_F0FF _ _ _).trans (by decide)⟩

theorem ldBVx (x : RegIx) : Statement (.ldBVx x) :=
  ⟨⟨"LD_B_Vx", 0xF0FF#16, 0xF033#16⟩, by decide, rfl, (packXKk_and_F0FF _ _ _).trans (by decide)⟩

theorem ldMemIVx (x : RegIx) : Statement (.ldMemIVx x) :=
  ⟨⟨"LD_mem_I_Vx", 0xF0FF#16, 0xF055#16⟩, by decide, rfl, (packXKk_and_F0FF _ _ _).trans (by decide)⟩

theorem ldVxMemI (x : RegIx) : Statement (.ldVxMemI x) :=
  ⟨⟨"LD_Vx_mem_I", 0xF0FF#16, 0xF065#16⟩, by decide, rfl, (packXKk_and_F0FF _ _ _).trans (by decide)⟩

end Sys2Proof.Laws.EncodeRow
end

