-- ==== Sys2Proof/Tests/Slice0.lean ====
section
/-! SUPPORT. Tests with expected results from spec/95_test_vectors.md (the vector is named before each), the smoke test
of WellFormed, and for every obligation with hypotheses a witness that meets them. -/

namespace Sys2Proof.Tests

open Sys2Proof.Machine Sys2Proof.Claims

/-- The default pre-state of 95_test_vectors.md with some registers written; no key, `rnd = A7`, no reset. -/
def pre (vs : List (RegIx × Byte)) : State :=
  vs.foldl (fun s p => s.setV p.1 p.2)
    { State.reset with inputs := [{ key := none, rnd := 0xA7#8, reset := false }] }

/-- The same with a key held. -/
def preKey (k : BitVec 4) (vs : List (RegIx × Byte)) : State :=
  { pre vs with inputs := [{ key := some k, rnd := 0xA7#8, reset := false }] }

/-- The same with bytes of `MEM`. -/
def preMem (vs : List (RegIx × Byte)) (a : Nat) (bs : List Byte) : State :=
  (pre vs).setMem ((pre vs).mem.writeBytes a bs)

/-- The same under a policy. -/
def prePolicy (p : VfAliasPolicy) (vs : List (RegIx × Byte)) : State :=
  { pre vs with cfg := { (pre vs).cfg with vfAlias := p } }

/-- One cycle with the word at `PC`; the check of the next state. -/
def cycle (s : State) (op : Nat) (check : State → Bool) : Bool :=
  match step (s.withFetchWord 16 op) with
  | .next t => check t
  | .fault _ => false
  | .refused _ => false

/-- Some register, `V[0xF]` and `PC` after a cycle. -/
def regs (x : RegIx) (v f : Byte) (t : State) : Bool :=
  t.getV x == v && t.getV VF == f && t.pc == 0x202#16 && t.fault.isNone

/-- `PC` after a cycle without a fault. -/
def pcIs (w : Word) (t : State) : Bool := t.pc == w && t.fault.isNone

/-- The fault record and `PC` after a cycle. -/
def faulted (r : FaultRecord) (pc : Word) (t : State) : Bool := t.fault == some r && t.pc == pc && t.cyc == 0

/-! ### WellFormed: an ill-formed term for its one check -/

theorem test_wellFormed_refuses_sixteen_rows : (Instr.drw 0 0 16).wellFormed = false := by decide
theorem test_wellFormed_admits_fifteen_rows : (Instr.drw 0 0 15).wellFormed = true := by decide

/-! ### Decoding: a word of every row written out from R87 -/

theorem test_decode_cls : decode 0x00E0#16 = some .cls := by decide
theorem test_decode_ret : decode 0x00EE#16 = some .ret := by decide
theorem test_decode_jp : decode 0x1FFF#16 = some (.jp 0xFFF#12) := by decide
theorem test_decode_call : decode 0x2345#16 = some (.call 0x345#12) := by decide
theorem test_decode_seVxKk : decode 0x3AFF#16 = some (.seVxKk 10 0xFF#8) := by decide
theorem test_decode_sneVxKk : decode 0x424D#16 = some (.sneVxKk 2 0x4D#8) := by decide
theorem test_decode_seVxVy : decode 0x5AB0#16 = some (.seVxVy 10 11) := by decide
theorem test_decode_ldVxKk : decode 0x63AB#16 = some (.ldVxKk 3 0xAB#8) := by decide
theorem test_decode_addVxKk : decode 0x7301#16 = some (.addVxKk 3 0x01#8) := by decide
theorem test_decode_ldVxVy : decode 0x8120#16 = some (.ldVxVy 1 2) := by decide
theorem test_decode_orVxVy : decode 0x8121#16 = some (.orVxVy 1 2) := by decide
theorem test_decode_andVxVy : decode 0x8122#16 = some (.andVxVy 1 2) := by decide
theorem test_decode_xorVxVy : decode 0x8123#16 = some (.xorVxVy 1 2) := by decide
theorem test_decode_addVxVy : decode 0x8AB4#16 = some (.addVxVy 10 11) := by decide
theorem test_decode_subVxVy : decode 0x8125#16 = some (.subVxVy 1 2) := by decide
theorem test_decode_shrVx : decode 0x8AB6#16 = some (.shrVx 10 11) := by decide
theorem test_decode_subnVxVy : decode 0x8127#16 = some (.subnVxVy 1 2) := by decide
theorem test_decode_shlVx : decode 0x8ABE#16 = some (.shlVx 10 11) := by decide
theorem test_decode_sneVxVy : decode 0x9AB0#16 = some (.sneVxVy 10 11) := by decide
theorem test_decode_ldI : decode 0xA123#16 = some (.ldI 0x123#12) := by decide
theorem test_decode_jpV0 : decode 0xB123#16 = some (.jpV0 0x123#12) := by decide
theorem test_decode_rnd : decode 0xC10F#16 = some (.rnd 1 0x0F#8) := by decide
theorem test_decode_drw : decode 0xD12F#16 = some (.drw 1 2 15) := by decide
theorem test_decode_skp : decode 0xE09E#16 = some (.skp 0) := by decide
theorem test_decode_sknp : decode 0xEFA1#16 = some (.sknp 15) := by decide
theorem test_decode_ldVxDt : decode 0xF107#16 = some (.ldVxDt 1) := by decide
theorem test_decode_ldVxK : decode 0xF00A#16 = some (.ldVxK 0) := by decide
theorem test_decode_ldDtVx : decode 0xF115#16 = some (.ldDtVx 1) := by decide
theorem test_decode_ldStVx : decode 0xF418#16 = some (.ldStVx 4) := by decide
theorem test_decode_addIVx : decode 0xF01E#16 = some (.addIVx 0) := by decide
theorem test_decode_ldFVx : decode 0xF129#16 = some (.ldFVx 1) := by decide
theorem test_decode_ldBVx : decode 0xF133#16 = some (.ldBVx 1) := by decide
theorem test_decode_ldMemIVx : decode 0xF155#16 = some (.ldMemIVx 1) := by decide
theorem test_decode_ldVxMemI : decode 0xF165#16 = some (.ldVxMemI 1) := by decide
/-- T-FLT 12: ten unknown words. -/
theorem test_decode_unknown : [0x00E1#16, 0x0123#16, 0x5121#16, 0x9121#16, 0x8128#16, 0x812F#16, 0xE19F#16,
    0xF100#16, 0xF145#16, 0xFFFF#16].all (fun op => (decode op).isNone) = true := by decide
/-- The bytes are taken big-endian (R54, E10). -/
theorem test_decodeBytes_order :
    decodeBytes [0x8A#8, 0xB4#8, 0x00#8] = .ok (.addVxVy 10 11, [0x00#8]) := by decide

/-! ### Control transfer (T-FLOW) -/

/-- T-FLOW 1. -/
theorem test_ret : cycle { pre [] with sp := 1#8, stk := (pre []).stk.set 1 0x0206#16 } 0x00EE
    (fun t => pcIs 0x206#16 t && t.sp == 0#8) = true := by decide
/-- T-FLOW 4. -/
theorem test_ret_outside_stack : cycle { pre [] with sp := 16#8 } 0x00EE
    (fun t => faulted ⟨.stackOutOfRange, 0x200#16, some 0x00EE#16, some 16⟩ 0x202#16 t && t.sp == 16#8) = true := by
  decide
/-- T-FLOW 6. -/
theorem test_jp : cycle (pre []) 0x1ABC (pcIs 0xABC#16) = true := by decide
/-- T-FLOW 9. -/
theorem test_call : cycle { pre [] with sp := 14#8 } 0x2ABC
    (fun t => pcIs 0xABC#16 t && t.sp == 15#8 && t.stk[15] == 0x0202#16) = true := by decide
/-- T-FLOW 10. -/
theorem test_call_full_stack : cycle { pre [] with sp := 15#8 } 0x2ABC
    (fun t => pcIs 0xABC#16 t && t.sp == 16#8 && t.stk == (pre []).stk) = true := by decide
/-- T-FLOW 12. -/
theorem test_seVxKk_taken : cycle (pre [(2, 0x4D#8)]) 0x324D (pcIs 0x204#16) = true := by decide
/-- T-FLOW 13. -/
theorem test_seVxKk_not_taken : cycle (pre [(2, 0x4C#8)]) 0x324D (pcIs 0x202#16) = true := by decide
/-- T-FLOW 14. -/
theorem test_sneVxKk_not_taken : cycle (pre [(2, 0x4D#8)]) 0x424D (pcIs 0x202#16) = true := by decide
/-- T-FLOW 15. -/
theorem test_sneVxKk_taken : cycle (pre [(2, 0x4C#8)]) 0x424D (pcIs 0x204#16) = true := by decide
/-- T-FLOW 16. -/
theorem test_seVxVy_taken : cycle (pre [(1, 7#8), (2, 7#8)]) 0x5120 (pcIs 0x204#16) = true := by decide
/-- T-FLOW 17. -/
theorem test_seVxVy_not_taken : cycle (pre [(1, 7#8), (2, 8#8)]) 0x5120 (pcIs 0x202#16) = true := by decide
/-- T-FLOW 19. -/
theorem test_sneVxVy_not_taken : cycle (pre [(1, 7#8), (2, 7#8)]) 0x9120 (pcIs 0x202#16) = true := by decide
/-- T-FLOW 20. -/
theorem test_sneVxVy_taken : cycle (pre [(1, 7#8), (2, 8#8)]) 0x9120 (pcIs 0x204#16) = true := by decide
/-- T-FLOW 22. -/
theorem test_jpV0 : cycle (pre [(0, 0x10#8)]) 0xB300 (pcIs 0x310#16) = true := by decide
/-- T-FLOW 23: the sum is not reduced to 12 bits. -/
theorem test_jpV0_beyond_memory : cycle (pre [(0, 0xFF#8)]) 0xBFFF (pcIs 0x10FE#16) = true := by decide

/-! ### Arithmetic and logic (T-ALU) -/

/-- T-ALU 1. -/
theorem test_ldVxKk : cycle (pre []) 0x63AB (regs 3 0xAB#8 0#8) = true := by decide
/-- T-ALU 3. -/
theorem test_addVxKk_wraps : cycle (pre [(3, 0xFF#8), (15, 0x55#8)]) 0x7301 (regs 3 0#8 0x55#8) = true := by decide
/-- T-ALU 6. -/
theorem test_ldVxVy : cycle (pre [(1, 1#8), (2, 0x77#8)]) 0x8120 (regs 1 0x77#8 0#8) = true := by decide
/-- T-ALU 8. -/
theorem test_orVxVy : cycle (pre [(1, 0xF0#8), (2, 0x0F#8), (15, 0x33#8)]) 0x8121 (regs 1 0xFF#8 0x33#8) = true := by
  decide
/-- T-ALU 9. -/
theorem test_andVxVy : cycle (pre [(1, 0xF0#8), (2, 0x3C#8), (15, 0x33#8)]) 0x8122 (regs 1 0x30#8 0x33#8) = true := by
  decide
/-- T-ALU 10. -/
theorem test_xorVxVy : cycle (pre [(1, 0xF0#8), (2, 0x3C#8), (15, 0x33#8)]) 0x8123 (regs 1 0xCC#8 0x33#8) = true := by
  decide
/-- T-ALU 14. -/
theorem test_addVxVy_carry : cycle (pre [(1, 0xFF#8), (2, 1#8)]) 0x8124 (regs 1 0#8 1#8) = true := by decide
/-- T-ALU 19: the result survives in `V[0xF]`. -/
theorem test_addVxVy_into_flag : cycle (pre [(15, 0xFF#8), (1, 1#8)]) 0x8F14 (regs 15 0#8 0#8) = true := by decide
/-- T-ALU 24: equal operands, strict comparison. -/
theorem test_subVxVy_equal : cycle (pre [(1, 0x33#8), (2, 0x33#8), (15, 1#8)]) 0x8125 (regs 1 0#8 0#8) = true := by
  decide
/-- T-ALU 28, under `sequential`. -/
theorem test_subVxVy_sequential :
    cycle (prePolicy .sequential [(1, 5#8), (15, 3#8)]) 0x81F5 (regs 1 4#8 1#8) = true := by decide
/-- T-ALU 32: `y` is ignored. -/
theorem test_shrVx : cycle (pre [(1, 5#8), (2, 0xFF#8)]) 0x8126
    (fun t => regs 1 2#8 1#8 t && t.getV 2 == 0xFF#8) = true := by decide
/-- T-ALU 36, under `sequential`. -/
theorem test_shrVx_sequential : cycle (prePolicy .sequential [(15, 6#8)]) 0x8F06 (regs 15 0#8 0#8) = true := by decide
/-- T-ALU 38: the literal difference (D29). -/
theorem test_subnVxVy : cycle (pre [(1, 0x10#8), (2, 0x20#8)]) 0x8127 (regs 1 0xF0#8 1#8) = true := by decide
/-- T-ALU 42, under `sequential`. -/
theorem test_subnVxVy_sequential :
    cycle (prePolicy .sequential [(15, 5#8), (1, 9#8)]) 0x8F17 (regs 15 0xF8#8 0xF8#8) = true := by decide
/-- T-ALU 43. -/
theorem test_shlVx : cycle (pre [(1, 0x81#8), (2, 0xFF#8)]) 0x812E
    (fun t => regs 1 2#8 1#8 t && t.getV 2 == 0xFF#8) = true := by decide
/-- T-ALU 46, under `sequential`. -/
theorem test_shlVx_sequential : cycle (prePolicy .sequential [(15, 0xC0#8)]) 0x8F0E (regs 15 2#8 2#8) = true := by
  decide
/-- T-ALU 48. -/
theorem test_rnd : cycle (pre []) 0xC10F (regs 1 7#8 0#8) = true := by decide
/-- T-ALU 48, by `RNG_OVERRIDE`. -/
theorem test_rnd_override :
    cycle { pre [] with inputs := [], cfg := { rngOverride := some 0xA7#8, tickDiv := 8, vfAlias := .operandsFirst } }
      0xC10F (regs 1 7#8 0#8) = true := by decide

/-! ### Index register, loads and stores (T-IDX, T-FLT) -/

/-- T-IDX 1. -/
theorem test_ldI : cycle (pre []) 0xA123 (fun t => t.i == 0x0123#16) = true := by decide
/-- T-IDX 4. -/
theorem test_addIVx_wraps : cycle ((pre [(1, 2#8)]).setI 0xFFFF#16) 0xF11E
    (fun t => t.i == 1#16 && t.getV VF == 0#8) = true := by decide
/-- T-IDX 3: no flag. -/
theorem test_addIVx_no_flag : cycle ((pre [(1, 1#8), (15, 7#8)]).setI 0x0FFF#16) 0xF11E
    (fun t => t.i == 0x1000#16 && t.getV VF == 7#8) = true := by decide
/-- T-IDX 6. -/
theorem test_ldFVx : cycle (pre [(0, 0x0B#8)]) 0xF029 (fun t => t.i == 0x0037#16) = true := by decide
/-- T-IDX 11: no nibble mask. -/
theorem test_ldFVx_whole_byte : cycle (pre [(0, 0xFF#8)]) 0xF029 (fun t => t.i == 0x04FB#16) = true := by decide
/-- T-IDX 15: the highest legal `I`. -/
theorem test_ldBVx : cycle ((pre [(1, 0xFF#8)]).setI 0xFFD#16) 0xF133 (fun t =>
    (List.range 3).map (fun k => t.mem.read (0xFFD + k)) == [2#8, 5#8, 5#8] && t.i == 0xFFD#16) = true := by decide
/-- T-FLT 8. -/
theorem test_ldBVx_out_of_range : cycle ((pre [(1, 0xFF#8)]).setI 0xFFE#16) 0xF133 (fun t =>
    faulted ⟨.outOfRangeAddress, 0x200#16, some 0xF133#16, some 0x1000⟩ 0x202#16 t &&
      t.mem.read 0xFFE == 0#8 && t.mem.read 0xFFF == 0#8) = true := by decide
/-- T-IDX 16. -/
theorem test_ldMemIVx : cycle ((pre [(0, 1#8), (1, 2#8), (2, 3#8), (3, 4#8), (4, 5#8)]).setI 0x400#16) 0xF355 (fun t =>
    (List.range 5).map (fun k => t.mem.read (0x400 + k)) == [1#8, 2#8, 3#8, 4#8, 0#8] && t.i == 0x400#16) = true := by
  decide
/-- T-FLT 6. -/
theorem test_ldMemIVx_out_of_range : cycle ((pre [(0, 1#8), (1, 2#8)]).setI 0xFFE#16) 0xF355 (fun t =>
    faulted ⟨.outOfRangeAddress, 0x200#16, some 0xF355#16, some 0x1000⟩ 0x202#16 t &&
      t.mem.read 0xFFE == 0#8 && t.mem.read 0xFFF == 0#8) = true := by decide
/-- T-IDX 20. -/
theorem test_ldVxMemI : cycle ((preMem [(3, 0x77#8)] 0x400 [0x11#8, 0x22#8, 0x33#8, 0x44#8]).setI 0x400#16) 0xF265
    (fun t => [t.getV 0, t.getV 1, t.getV 2, t.getV 3] == [0x11#8, 0x22#8, 0x33#8, 0x77#8]) = true := by decide
/-- T-IDX 22: the default glyphs. -/
theorem test_ldVxMemI_glyphs : cycle (pre []) 0xFF65 (fun t => (List.finRange 16).map t.getV ==
    [0xF0#8, 0x90#8, 0x90#8, 0x90#8, 0xF0#8, 0x20#8, 0x60#8, 0x20#8, 0x20#8, 0x70#8, 0xF0#8, 0x10#8, 0xF0#8, 0x80#8,
      0xF0#8, 0xF0#8]) = true := by decide

/-! ### Display (T-DSP, T-FLT) -/

/-- The set pixels among some. -/
def lit (t : State) (ps : List (Fin 64 × Fin 32)) : Bool := ps.all (fun p => t.pixel p.1 p.2)

/-- T-DSP 1. -/
theorem test_cls : cycle { pre [(15, 7#8)] with fb := (pre []).fb.put 5 5 true } 0x00E0
    (fun t => t.pixel 5 5 == false && t.fb == Framebuffer.clear && t.getV VF == 7#8) = true := by decide
/-- T-DSP 5: wrapping on the right edge, start past both edges. -/
theorem test_drw_wraps : cycle ((preMem [(1, 0x7E#8), (2, 0x3F#8)] 0x300 [0xC3#8]).setI 0x300#16) 0xD121
    (fun t => lit t [(62, 31), (63, 31), (4, 31), (5, 31)] && t.pixel 0 31 == false && t.pixel 61 31 == false &&
      t.getV VF == 0#8) = true := by decide
/-- T-DSP 8, last cycle: a partial overlap collides. -/
theorem test_drw_collides :
    cycle { (preMem [] 0x301 [0x3C#8]).setI 0x301#16 with
      fb := (((pre []).fb.put 0 0 true).put 1 0 true).put 2 0 true |>.put 3 0 true } 0xD001
      (fun t => lit t [(0, 0), (1, 0), (4, 0), (5, 0)] && t.pixel 2 0 == false && t.pixel 3 0 == false &&
        t.getV VF == 1#8) = true := by decide

/-! ### Keys and timers (T-KEY, T-TICK) -/

/-- T-KEY 1. -/
theorem test_skp_pressed : cycle (preKey 7#4 [(1, 7#8)]) 0xE19E (pcIs 0x204#16) = true := by decide
/-- T-KEY 4: the whole byte is compared. -/
theorem test_skp_whole_byte : cycle (preKey 7#4 [(1, 0x17#8)]) 0xE19E (pcIs 0x202#16) = true := by decide
/-- T-KEY 6. -/
theorem test_sknp_pressed : cycle (preKey 7#4 [(1, 7#8)]) 0xE1A1 (pcIs 0x202#16) = true := by decide
/-- T-KEY 8. -/
theorem test_sknp_no_key : cycle (pre [(1, 7#8)]) 0xE1A1 (pcIs 0x204#16) = true := by decide
/-- T-KEY 10. -/
theorem test_ldVxDt : cycle ((pre []).setDt 0x42#8) 0xF107 (fun t => t.getV 1 == 0x42#8 && t.dt == 0x42#8) = true := by
  decide
/-- T-TICK 1: the read comes before the tick. -/
theorem test_ldVxDt_before_tick : cycle (((pre []).setDt 1#8).setCyc 7) 0xF107
    (fun t => t.getV 1 == 1#8 && t.dt == 0#8 && t.cyc == 0 && t.refresh) = true := by decide
/-- T-KEY 14. -/
theorem test_ldVxK_completes : cycle (preKey 0xC#4 []) 0xF30A
    (fun t => t.getV 3 == 0x0C#8 && t.mode == .run && t.pc == 0x202#16) = true := by decide
/-- T-KEY 15, cycle 1. -/
theorem test_ldVxK_waits : cycle (pre []) 0xF30A
    (fun t => t.mode == .waitKey 3 && t.pc == 0x202#16 && t.cyc == 1) = true := by decide
/-- T-KEY 11. -/
theorem test_ldDtVx : cycle (pre [(1, 5#8)]) 0xF115 (fun t => t.dt == 5#8) = true := by decide
/-- T-TICK 2. -/
theorem test_ldDtVx_before_tick : cycle ((pre [(1, 5#8)]).setCyc 7) 0xF115
    (fun t => t.dt == 4#8 && t.cyc == 0) = true := by decide
/-- T-KEY 13. -/
theorem test_ldStVx : cycle (pre [(1, 5#8)]) 0xF118 (fun t => t.st == 5#8 && t.snd) = true := by decide
/-- T-TICK 3. -/
theorem test_ldStVx_before_tick : cycle ((pre [(1, 1#8)]).setCyc 7) 0xF118
    (fun t => t.st == 0#8 && t.snd == false) = true := by decide

/-! ### Faults, halt and reset (T-FLT, T-RST) -/

/-- One cycle of a state as it stands. -/
def bare (s : State) (check : State → Bool) : Bool :=
  match step s with
  | .next t => check t
  | .fault _ => false
  | .refused _ => false

/-- T-FLT 1. -/
theorem test_fetch_fault : bare ((pre []).setPc 0x1000#16)
    (faulted ⟨.outOfRangeAddress, 0x1000#16, none, some 0x1000⟩ 0x1000#16) = true := by decide
/-- T-FLT 2. -/
theorem test_fetch_fault_second_byte : bare ((pre []).setPc 0xFFF#16)
    (faulted ⟨.outOfRangeAddress, 0xFFF#16, none, some 0x1000⟩ 0xFFF#16) = true := by decide
/-- T-FLT 11. -/
theorem test_decode_fault : bare (pre [])
    (faulted ⟨.unknownOpcode, 0x200#16, some 0#16, none⟩ 0x202#16) = true := by decide
/-- T-FLT 17. -/
theorem test_odd_pc : bare ((preMem [] 0x201 [0x60#8, 0x00#8]).setPc 0x201#16) (pcIs 0x203#16) = true := by decide
/-- A state halted by T-FLT 11, with one input to come. -/
def halted (inputs : List Inputs) : State :=
  { pre [(1, 9#8)] with
    pc := 0x202#16
    fault := some ⟨.unknownOpcode, 0x200#16, some 0#16, none⟩
    inputs := inputs }
/-- T-FLT 13. -/
theorem test_halted_core : bare (halted [⟨none, 0#8, false⟩])
    (fun t => t.fault == (halted []).fault && t.pc == 0x202#16 && t.cyc == 0 && t.getV 1 == 9#8) = true := by decide
/-- T-RST 1. -/
theorem test_reset_of_halted_core : bare (halted [⟨none, 0#8, true⟩])
    (fun t => t.fault.isNone && t.pc == 0x200#16 && t.cyc == 0 && t.getV 1 == 0#8 && t.mode == .run) = true := by decide
/-- A pending wait for `V[3]` (T-TICK 8 before its cycle 2). -/
def waiting (key : Option (BitVec 4)) : State :=
  { pre [(3, 0x55#8)] with
    pc := 0x202#16
    mode := .waitKey 3
    dt := 2#8
    cyc := 7
    inputs := [⟨key, 0#8, false⟩] }
/-- T-TICK 8, cycle 2: timers decay during the wait. -/
theorem test_wait_polls : bare (waiting none)
    (fun t => t.mode == .waitKey 3 && t.dt == 1#8 && t.cyc == 0 && t.pc == 0x202#16) = true := by decide
/-- T-KEY 15, cycle 3: key 0 is a key. -/
theorem test_wait_ends : bare (waiting (some 0#4))
    (fun t => t.mode == .run && t.getV 3 == 0#8 && t.pc == 0x202#16) = true := by decide
/-- T-TICK 9. -/
theorem test_every_cycle_ticks :
    cycle { pre [(1, 3#8)] with cfg := { rngOverride := none, tickDiv := 1, vfAlias := .operandsFirst } } 0xF115
      (fun t => t.dt == 2#8 && t.cyc == 0) = true := by decide

/-! ### Witnesses: each obligation's hypotheses are met, clause by clause, at boundary values -/

/-- A state about to run the word at 0x200. -/
def at200 (s : State) (op : Nat) : State := s.withFetchWord 16 op

theorem witness_DecodeOfEncode : (Instr.drw 15 15 15).wellFormed = true := by decide
theorem witness_EncodeOfDecode : decode 0x8AB6#16 = some (.shrVx 10 11) := by decide
theorem witness_DecodeIsExactMatchOnOpcodeMap :
    decode 0x9AB0#16 = some (.sneVxVy 10 11) ∧ decode 0x9AB1#16 = none ∧
      (⟨"SNE_Vx_Vy", 0xF00F#16, 0x9000#16⟩ ∈ opcodeMap ∧ 0x9AB0#16 &&& 0xF00F#16 = 0x9000#16) := by decide
/-- Each clause on its right, so on its left too. -/
theorem witness_IllegalWordsByGroup :
    decode 0x00E1#16 = none ∧ decode 0x5121#16 = none ∧ decode 0x812F#16 = none ∧ decode 0x9121#16 = none ∧
      decode 0xE19F#16 = none ∧ decode 0xF145#16 = none ∧ decode 0x00EE#16 ≠ none ∧ decode 0x812E#16 ≠ none := by decide
/-- The two clauses meet between 0xFFF and 0x1000. -/
theorem witness_ByteAccessesAreBoundsChecked :
    (0xFFF < 0x1000 ∧ (pre []).memRead 0x1000 = .error 0x1000) ∧ (0xFFF ≤ 0xFFF ∧ (pre []).memRead 0xFFF = .ok 0#8) :=
  ⟨⟨by decide, rfl⟩, by decide, rfl⟩
theorem witness_FetchIsBigEndianAndBounded :
    0xFFF < ((pre []).setPc 0x1000#16).pc.toNat ∧ ((pre []).setPc 0xFFF#16).pc.toNat = 0xFFF ∧
      ((pre []).setPc 0xFFE#16).pc.toNat < 0xFFF ∧ 0xFFF ≤ ((pre []).setPc 0xFFF#16).pc.toNat := by decide
/-- One state per clause: no fault, a fault, a refusal. -/
theorem witness_StepRunsDecodedInstruction :
    (AboutToRun (at200 (pre []) 0x63AB) (.ldVxKk 3 0xAB#8) ∧
      ∃ t, exec (.ldVxKk 3 0xAB#8) (preState (at200 (pre []) 0x63AB)) = .next t ∧ t.fault = none) ∧
    (AboutToRun (at200 { pre [] with sp := 16#8 } 0x00EE) .ret ∧
      ∃ t, exec .ret (preState (at200 { pre [] with sp := 16#8 } 0x00EE)) = .next t ∧ t.fault ≠ none) ∧
    (AboutToRun (at200 (prePolicy .refuse []) 0x81F5) (.subVxVy 1 15) ∧
      exec (.subVxVy 1 15) (preState (at200 (prePolicy .refuse []) 0x81F5)) = .refused .vfAliased) := by
  refine ⟨⟨by unfold AboutToRun; decide, _, rfl, by decide⟩, ⟨by unfold AboutToRun; decide, _, rfl, by decide⟩,
    by unfold AboutToRun; decide, rfl⟩
theorem witness_StepKeepsInvariant : (at200 (pre []) 0xF355).Inv ∧ ∃ t, step (at200 (pre []) 0xF355) = .next t :=
  ⟨by decide, _, rfl⟩
/-- The invariant speaks of halted cores too. -/
theorem witness_StepKeepsInvariant_halted :
    (halted [⟨none, 0#8, true⟩]).Inv ∧ ∃ t, step (halted [⟨none, 0#8, true⟩]) = .next t := ⟨by decide, _, rfl⟩
theorem witness_StepKeepsParametersAndSamplesOnce : ∃ t, step (pre []) = .next t := ⟨_, rfl⟩
theorem witness_FetchAndDecodeFaultsHaltCore :
    ((pre []).input.reset = false ∧ (pre []).fault = none ∧ (pre []).mode = .run) ∧
      0xFFF ≤ ((pre []).setPc 0xFFF#16).pc.toNat ∧
      ((at200 ((pre []).setPc 0xFFE#16) 0x8128).pc.toNat < 0xFFF ∧
        joinBytes ((at200 ((pre []).setPc 0xFFE#16) 0x8128).mem.read 0xFFE)
          ((at200 ((pre []).setPc 0xFFE#16) 0x8128).mem.read 0xFFF) = 0x8128#16 ∧ decode 0x8128#16 = none) := by decide
theorem witness_HaltedCoreIsFrozen :
    ((halted []).fault ≠ none ∧ (halted []).input.reset = false ∧ (halted []).inputs = []) ∧
      ((halted [⟨none, 0#8, false⟩]).fault ≠ none ∧ (halted [⟨none, 0#8, false⟩]).input.reset = false ∧
        (halted [⟨none, 0#8, false⟩]).inputs ≠ []) := by decide
theorem witness_ResetInputRestoresRegisters : (halted [⟨none, 0#8, true⟩]).input.reset = true := by decide
theorem witness_EndOfCycleCountsAndTicks :
    (((pre []).setCyc 7).fault = none ∧ ((pre []).setCyc 7).cyc + 1 = ((pre []).setCyc 7).cfg.tickDiv) ∧
      (((pre []).setCyc 6).fault = none ∧ ((pre []).setCyc 6).cyc + 1 ≠ ((pre []).setCyc 6).cfg.tickDiv) ∧
      (halted []).fault ≠ none := by decide
theorem witness_TickFollowsInstruction :
    ((pre []).setCyc 7).cyc + 1 = ((pre []).setCyc 7).cfg.tickDiv ∧
      AboutToRun (at200 ((pre []).setCyc 7) 0xF107) (.ldVxDt 1) ∧
      AboutToRun (at200 ((pre []).setCyc 7) 0xF115) (.ldDtVx 1) ∧
      AboutToRun (at200 ((pre []).setCyc 7) 0xF118) (.ldStVx 1) := by unfold AboutToRun; decide
/-- Without and with a key, each with a tick due and not due. -/
theorem witness_KeyWaitPollsOncePerCycle :
    ((waiting none).input.reset = false ∧ (waiting none).fault = none ∧ (waiting none).mode = .waitKey 3 ∧
      (waiting none).input.key = none) ∧
    ((waiting (some 15#4)).input.reset = false ∧ (waiting (some 15#4)).fault = none ∧
      (waiting (some 15#4)).mode = .waitKey 3 ∧ (waiting (some 15#4)).input.key = some 15#4) ∧
    ((waiting none).cyc + 1 = (waiting none).cfg.tickDiv ∧
      (waiting (some 15#4)).cyc + 1 = (waiting (some 15#4)).cfg.tickDiv) ∧
    (((waiting none).setCyc 6).mode = .waitKey 3 ∧ ((waiting none).setCyc 6).input.key = none ∧
      ((waiting none).setCyc 6).cyc + 1 ≠ ((waiting none).setCyc 6).cfg.tickDiv) ∧
    (((waiting (some 15#4)).setCyc 6).mode = .waitKey 3 ∧ ((waiting (some 15#4)).setCyc 6).input.key = some 15#4 ∧
      ((waiting (some 15#4)).setCyc 6).cyc + 1 ≠ ((waiting (some 15#4)).setCyc 6).cfg.tickDiv) := by decide
theorem witness_decoding_hypotheses :
    (grp 0x1FFF#16 = 1 ∧ grp 0xB123#16 = 0xB ∧ grp 0x3AFF#16 = 3 ∧ grp 0x424D#16 = 4 ∧ grp 0x5AB0#16 = 5 ∧
      grp 0x9AB1#16 = 9 ∧ grp 0x2345#16 = 2 ∧ grp 0x63AB#16 = 6 ∧ grp 0x7301#16 = 7 ∧ grp 0xA123#16 = 0xA) ∧
    ((grp 0x8120#16 = 8 ∧ n 0x8120#16 = 0) ∧ (grp 0x8AB4#16 = 8 ∧ n 0x8AB4#16 = 4) ∧
      (grp 0x8125#16 = 8 ∧ n 0x8125#16 = 5) ∧ (grp 0xE09E#16 = 0xE ∧ (kk 0xE09E#16).toNat = 0x9E) ∧
      (grp 0xEFA1#16 = 0xE ∧ (kk 0xEFA1#16).toNat = 0xA1) ∧ (0x00E0#16 : Word).toNat = 0x00E0) := by decide
theorem witness_jump_targets_outside_memory :
    (0xFFF#12 : BitVec 12).toNat = 0xFFF ∧ 0xFFE < (0xFFF#12 : BitVec 12).toNat + ((pre []).getV 0).toNat := by decide
theorem witness_ReturnPopsAddress : ({ pre [] with sp := 15#8 } : State).sp.toNat < 16 := by decide
theorem witness_ReturnOutsideStackFaults : 16 ≤ ({ pre [] with sp := 16#8 } : State).sp.toNat := by decide
theorem witness_CallThenReturnComesBack :
    ({ pre [] with sp := 14#8 } : State).sp.toNat ≤ 14 ∧
      ∃ t, exec (.call 0xABC#12) { pre [] with sp := 14#8 } = .next t ∧ ∃ u : State, u.sp = t.sp ∧ u.stk = t.stk :=
  ⟨by decide, _, rfl, _, rfl, rfl⟩
/-- Both policies, with `V[0xF]` as an operand and without. -/
theorem witness_flag_rows :
    (pre []).cfg.vfAlias ≠ .refuse ∧ (prePolicy .sequential []).cfg.vfAlias ≠ .refuse ∧ (1 : RegIx) ≠ VF ∧
      ((prePolicy .sequential []).cfg.vfAlias = .sequential ∧ (15 : RegIx) = VF) := by decide
theorem witness_RefusePolicyStopsAliasedFormsOnly :
    (prePolicy .refuse []).cfg.vfAlias = .refuse ∧ exec (.shrVx 15 1) (prePolicy .refuse []) = .refused .vfAliased :=
  ⟨by decide, rfl⟩
/-- A form with both registers the flag, and a shift of another register. -/
theorem witness_OtherFormsIgnoreAliasPolicy :
    (∀ vx vy, Instr.subVxVy 15 15 = .subVxVy vx vy ∨ Instr.subVxVy 15 15 = .subnVxVy vx vy → (vx = VF ↔ vy = VF)) ∧
      (∀ vx vy, Instr.shrVx 14 15 = .shrVx vx vy ∨ Instr.shrVx 14 15 = .shlVx vx vy → vx ≠ VF) := by decide
theorem witness_RandomByteIsMasked :
    ({ pre [] with cfg := ⟨some 0xA7#8, 8, .operandsFirst⟩ } : State).cfg.rngOverride = some 0xA7#8 ∧
      (pre []).cfg.rngOverride = none := by decide
theorem witness_StoresDecimalDigits : ((pre []).setI 0xFFD#16).i.toNat + 2 ≤ 0xFFF := by decide
theorem witness_StoresRegisterRange :
    ((pre []).setI 0xFF0#16).i.toNat + (15 : RegIx).val ≤ 0xFFF ∧ (15 : RegIx) ≤ 15 := by decide
theorem witness_LoadsRegisterRange : ((pre []).setI 0xFFF#16).i.toNat + (0 : RegIx).val ≤ 0xFFF := by decide
theorem witness_StoreThenLoadRestoresRegisters :
    ((pre []).setI 0xFFC#16).i.toNat + (3 : RegIx).val ≤ 0xFFF ∧
      ∃ t, exec (.ldMemIVx 3) ((pre []).setI 0xFFC#16) = .next t ∧
        ∃ u : State, u.i = t.i ∧ Part.Same .mem t u ∧ u.getV 3 = 0x55#8 :=
  ⟨by decide, _, rfl, (((pre []).setI 0xFFC#16).setMem _).setV 3 0x55#8, rfl, fun _ => rfl, by decide⟩
/-- Each at the lowest `I` that faults. -/
theorem witness_OutOfRangeAccessWritesNothing :
    0xFFF < ((pre []).setI 0xFFE#16).i.toNat + 2 ∧ 0xFFF < ((pre []).setI 0xFF1#16).i.toNat + (15 : RegIx).val ∧
      0xFFF < ((pre []).setI 0x1000#16).i.toNat + (0 : RegIx).val ∧
      (0 < 2 ∧ 0xFFF < ((pre []).setI 0xFFF#16).i.toNat + 2 - 1) := by decide
theorem witness_ReportedAddressIsLowest :
    rangeFault 0xFFE 3 = some 0x1000 ∧ rangeFault 0xFFFF 3 = some 0xFFFF ∧ rangeFault 0xFFD 3 = none := by decide
theorem witness_StoreIsSeenByNextFetch :
    ((pre []).setI 0x200#16).i = ((pre []).setI 0x200#16).pc ∧ 1 ≤ (1 : RegIx).val ∧
      ((pre []).setI 0x200#16).i.toNat + (1 : RegIx).val ≤ 0xFFF := by decide
/-- No row at an `I` outside `MEM`; the last row at 0xFFF. -/
theorem witness_DrawXorsSpriteOntoScreen :
    ((Instr.drw 1 2 0).wellFormed = true ∧ 0xFFF < ((pre []).setI 0xFFFF#16).i.toNat) ∧
      ((Instr.drw 1 2 15).wellFormed = true ∧ ((pre []).setI 0xFF1#16).i.toNat + 15 - 1 ≤ 0xFFF) := by decide
/-- Glyph 0 over one set pixel: a collision, and the other clauses of R153 on other pixels. -/
theorem witness_CollisionIsSetBitOnSetPixel :
    let s : State := { pre [] with fb := (pre []).fb.put 0 0 true }
    (Instr.drw 1 2 5).wellFormed = true ∧ s.i.toNat + 5 - 1 ≤ 0xFFF ∧
      (s.pixel 0 0 = true ∧ s.spriteAt (s.getV 1) (s.getV 2) 5 0 0 = true) ∧
      s.spriteAt (s.getV 1) (s.getV 2) 5 1 1 = false ∧
      (s.spriteAt (s.getV 1) (s.getV 2) 5 3 1 = true ∧ s.pixel 3 1 = false) := by decide
theorem witness_CollisionIsSetBitOnSetPixel_none (cx : Fin 64) (cy : Fin 32) :
    ¬ ((pre []).pixel cx cy = true ∧ (pre []).spriteAt 0#8 0#8 5 cx cy = true) := by
  intro h
  have : (pre []).pixel cx cy = false := by
    show Framebuffer.get (Vector.replicate 64 (Vector.replicate 32 false)) cx cy = false
    simp [Framebuffer.get]
  rw [this] at h
  exact absurd h.1 (by decide)
theorem witness_DrawTwiceCancels :
    ((Instr.drw 1 2 5).wellFormed = true ∧ (1 : RegIx) ≠ VF ∧ (2 : RegIx) ≠ VF ∧ (pre []).i.toNat + 5 - 1 ≤ 0xFFF) ∧
      (∃ t, exec (.drw 1 2 5) (pre []) = .next t ∧ ∃ u : State, u.i = t.i ∧ Part.Same .mem t u ∧ Part.Same .fb t u ∧
        Part.Same .regs t u) ∧
      (∀ cx cy, (pre []).spriteAt 0#8 0#8 5 cx cy = true → (pre []).pixel cx cy = false) ∧
      (∃ cx cy, (pre []).spriteAt 0#8 0#8 5 cx cy = true) := by
  refine ⟨by decide, ⟨_, rfl, _, rfl, fun _ => rfl, fun _ _ => rfl, fun _ => rfl⟩, fun cx cy h => ?_, 0, 0, by decide⟩
  have := witness_CollisionIsSetBitOnSetPixel_none cx cy
  exact Bool.eq_false_iff.2 fun e => this ⟨e, h⟩
theorem witness_KeySkipsCompareHeldKey :
    (∃ k, (preKey 15#4 [(1, 15#8)]).input.key = some k ∧ k.toNat = ((preKey 15#4 [(1, 15#8)]).getV 1).toNat) ∧
      ¬ ∃ k, (pre [(1, 15#8)]).input.key = some k ∧ k.toNat = ((pre [(1, 15#8)]).getV 1).toNat :=
  ⟨⟨15#4, by decide, by decide⟩, fun ⟨_, h, _⟩ => nomatch h⟩
theorem witness_KeyWaitCompletesOrSuspends :
    (preKey 15#4 []).input.key = some 15#4 ∧ (pre []).input.key = none := by decide
theorem witness_FlagRegisterHasSixFlagWriters :
    (∃ t, exec (.addVxVy 1 2) (pre [(1, 0xFF#8), (2, 1#8)]) = .next t ∧
      t.getV VF ≠ (pre [(1, 0xFF#8), (2, 1#8)]).getV VF) ∧ (1 : RegIx) ≠ VF :=
  ⟨⟨_, rfl, by decide⟩, by decide⟩
/-- A write to each of `MEM`, `FB` and `STK`. -/
theorem witness_MemorySpacesHaveTheirWriters :
    (∃ t, exec (.ldMemIVx 0) (pre [(0, 1#8)]) = .next t ∧ t.mem.read 0 ≠ (pre [(0, 1#8)]).mem.read 0) ∧
      (∃ t, exec (.drw 0 0 1) (pre []) = .next t ∧ t.pixel 0 0 ≠ (pre []).pixel 0 0) ∧
      (∃ t, exec (.call 0#12) (pre []) = .next t ∧ t.stk[1] ≠ (pre []).stk[1]) :=
  ⟨⟨_, rfl, by decide⟩, ⟨_, rfl, by decide⟩, ⟨_, rfl, by decide⟩⟩
/-- A write to each special register, `MODE` and `FAULT`. -/
theorem witness_SpecialRegistersHaveTheirWriters :
    (∃ t, exec (.ldI 1#12) (pre []) = .next t ∧ t.i ≠ (pre []).i) ∧
      (∃ t, exec .ret (pre []) = .next t ∧ t.sp ≠ (pre []).sp) ∧
      (∃ t, exec (.ldDtVx 1) (pre [(1, 1#8)]) = .next t ∧ t.dt ≠ (pre [(1, 1#8)]).dt) ∧
      (∃ t, exec (.ldStVx 1) (pre [(1, 1#8)]) = .next t ∧ t.st ≠ (pre [(1, 1#8)]).st) ∧
      (∃ t, exec (.ldVxK 1) (pre []) = .next t ∧ t.mode ≠ (pre []).mode) ∧
      (∃ t, exec (.ldBVx 1) ((pre []).setI 0xFFE#16) = .next t ∧ t.fault ≠ ((pre []).setI 0xFFE#16).fault) :=
  ⟨⟨_, rfl, by decide⟩, ⟨_, rfl, by decide⟩, ⟨_, rfl, by decide⟩, ⟨_, rfl, by decide⟩, ⟨_, rfl, by decide⟩,
    ⟨_, rfl, by decide⟩⟩
theorem witness_FaultingInstructionChangesNothingElse :
    (∃ t, exec .ret { pre [] with sp := 16#8 } = .next t ∧ t.fault ≠ (pre []).fault) ∧
      (∃ t, exec (.drw 1 2 1) ((pre []).setI 0x1000#16) = .next t ∧ t.fault ≠ ((pre []).setI 0x1000#16).fault) :=
  ⟨⟨_, rfl, by decide⟩, ⟨_, rfl, by decide⟩⟩
theorem witness_EveryInstructionAnswersNextState : (prePolicy .sequential []).cfg.vfAlias ≠ .refuse := by decide
/-- A jump to itself at 0x200 (T-FLOW 7). -/
theorem witness_FinishedProgramStaysFinished :
    (at200 (pre []) 0x1200).Finished ∧ (at200 (pre []) 0x1200).input.reset = false := by decide
/-- The two clauses meet between 3584 and 3585 bytes. -/
theorem witness_PowerOnLaysOutMemory :
    3584 < (PowerOn.withRom (List.replicate 3585 0x60#8)).rom.length ∧
      (PowerOn.withRom (List.replicate 3584 0x60#8)).rom.length ≤ 3584 :=
  ⟨by rw [show (PowerOn.withRom (List.replicate 3585 0x60#8)).rom = List.replicate 3585 0x60#8 from rfl,
      List.length_replicate]; decide,
    by rw [show (PowerOn.withRom (List.replicate 3584 0x60#8)).rom = List.replicate 3584 0x60#8 from rfl,
      List.length_replicate]⟩

end Sys2Proof.Tests
end

section
namespace Sys2Proof.Machine

/-- A store up to 0xFFF is one memory update. -/
theorem State.memWrite_ok (s : State) {a : Nat} (b : Byte) (h : a ≤ 0xFFF) :
    s.memWrite a b = .ok (s.setMem (s.mem.write a b)) := by
  simp [State.memWrite, memAddr_ok h, State.setMem]

theorem State.memWrite_error (s : State) {a : Nat} (b : Byte) (h : 0xFFF < a) : s.memWrite a b = .error a := by
  simp [State.memWrite, memAddr_error h]

/-- A byte reads back as stored. -/
theorem State.memRead_setMem_write (s : State) {a : Nat} (b : Byte) (h : a ≤ 0xFFF) :
    (s.setMem (s.mem.write a b)).memRead a = .ok b := by
  rw [State.memRead_ok _ h, State.setMem_mem, Memory.read_write, if_pos rfl]

/-- Settles O7: each access is one of its two outcomes by the bounds check, and a store that passes it is
one memory update, the run of length 1 of `Memory.writeBytes`. -/
theorem byteAccessesAreBoundsChecked : Obligations.ByteAccessesAreBoundsChecked := by
  intro s a b
  refine ⟨fun h => ⟨s.memRead_error h, s.memWrite_error b h⟩, fun h => ⟨s.memRead_ok h, ?_⟩⟩
  exact ⟨_, s.memWrite_ok b h, s.memRead_setMem_write b h, memKeptOutside_writeBytes s a [b],
    changesOnly_setMem s _⟩

end Sys2Proof.Machine
end

section
namespace Sys2Proof

/-- The operand field of `k` bits from bit `j`, by R81's mask and shift, is a quotient and a remainder. -/
theorem mask_shift_eq_div_mod {op mask : Word} (j k : Nat) (h : mask.toNat = (2 ^ k - 1) <<< j) :
    (op &&& mask).toNat >>> j = op.toNat / 2 ^ j % 2 ^ k := by
  rw [BitVec.toNat_and, h, Nat.shiftRight_and_distrib, Nat.shiftLeft_shiftRight,
    Nat.and_two_pow_sub_one_eq_mod, Nat.shiftRight_eq_div_pow]

/-- A field at bit 0 needs the mask alone. -/
theorem mask_eq_mod {op mask : Word} (k : Nat) (h : mask.toNat = 2 ^ k - 1) :
    (op &&& mask).toNat = op.toNat % 2 ^ k := by
  rw [BitVec.toNat_and, h, Nat.and_two_pow_sub_one_eq_mod]

/-- Settles O5: the mask and shift of a field and the decoder's extraction are the same quotient and remainder
of the word. -/
theorem fieldExtractionBitExact : Obligations.FieldExtractionBitExact := by
  intro op
  have hgrp : op.toNat / 4096 = op.toNat / 4096 % 16 := (Nat.mod_eq_of_lt (by omega)).symm
  refine ⟨?grp, ?nnn, ?kk, ?x, ?y, ?n⟩
  case grp => exact (fieldGrp_toNat op).trans (hgrp.trans (mask_shift_eq_div_mod 12 4 rfl).symm)
  case nnn => exact (fieldNnn_toNat op).trans (mask_eq_mod 12 rfl).symm
  case kk => exact (fieldKk_toNat op).trans (mask_eq_mod 8 rfl).symm
  case x => exact (fieldX_val op).trans (mask_shift_eq_div_mod 8 4 rfl).symm
  case y => exact (fieldY_val op).trans (mask_shift_eq_div_mod 4 4 rfl).symm
  case n => exact (fieldN_toNat op).trans (mask_eq_mod 4 rfl).symm

end Sys2Proof
end

section
namespace Sys2Proof.Machine

/-- A failing fetch ends the engine part of the cycle with the fetch fault. -/
theorem engineStep_of_fetch_error {s : State} {bad : Nat} (h : s.fetch = .error bad) :
    engineStep s = .next (s.fetchFault bad) := by
  simp only [engineStep, h]

theorem changesOnly_fetchFault (s : State) (bad : Nat) : ChangesOnly [.fault] s (s.fetchFault bad) :=
  changesOnly_setFault s _

/-- Settles O8: a fetch is its two bytes joined or the first address above 0xFFF, and the fault of a failing one
writes the record alone. -/
theorem fetchIsBigEndianAndBounded : Obligations.FetchIsBigEndianAndBounded := by
  intro s
  refine ⟨fun h => ?above, fun h => ?atEnd, fun h => ?inside, fun h => ?faults⟩
  case above => rw [s.fetch_error (by omega), Nat.max_eq_left h]
  case atEnd => rw [s.fetch_error (by omega), h]; rfl
  case inside => exact ⟨_, s.fetch_ok h, joinBytes_toNat _ _⟩
  case faults =>
    have hfetch := s.fetch_error (Nat.lt_succ_of_le h)
    exact ⟨_, _, engineStep_of_fetch_error hfetch, rfl, rfl, rfl, rfl, changesOnly_fetchFault s _⟩

end Sys2Proof.Machine
end

section
namespace Sys2Proof

/-! The arithmetic fields of a word that the statements name are the decoder's own. -/

theorem fieldGrp_of_grp {op : Word} {g : Nat} (h : Claims.grp op = g) : fieldGrp op = BitVec.ofNat 4 g := by
  rw [← h, Claims.grp, ← fieldGrp_toNat, BitVec.ofNat_toNat, BitVec.setWidth_eq]

theorem fieldNnn_eq_nnn (op : Word) : fieldNnn op = Claims.nnn op :=
  BitVec.eq_of_toNat_eq (fieldNnn_toNat op)

/-- Group 0x1 is the jump (30_encoding.md R87). -/
theorem decode_group1 {op : Word} (h : Claims.grp op = 0x1) : decode op = some (.jp (Claims.nnn op)) := by
  simp only [decode, fieldGrp_of_grp h, fieldNnn_eq_nnn]

/-- Group 0xB is the jump with offset (30_encoding.md R87). -/
theorem decode_groupB {op : Word} (h : Claims.grp op = 0xB) : decode op = some (.jpV0 (Claims.nnn op)) := by
  simp only [decode, fieldGrp_of_grp h, fieldNnn_eq_nnn]

end Sys2Proof

namespace Sys2Proof.Machine

theorem exec_jp (a : BitVec 12) (s : State) : exec (.jp a) s = .next (s.setPc (zextNnn a)) := rfl

theorem exec_jpV0 (a : BitVec 12) (s : State) :
    exec (.jpV0 a) s = .next (s.setPc (zextNnn a + zextByte (s.getV 0))) := rfl

@[simp] theorem zextNnn_toNat (a : BitVec 12) : (zextNnn a).toNat = a.toNat :=
  BitVec.toNat_setWidth_of_le (by decide)

@[simp] theorem zextByte_toNat (b : Byte) : (zextByte b).toNat = b.toNat :=
  BitVec.toNat_setWidth_of_le (by decide)

/-- A 12-bit address plus a byte fits in 16 bits, so the sum is exact (40_flow.md R108). -/
theorem zextNnn_add_zextByte_toNat (a : BitVec 12) (b : Byte) :
    (zextNnn a + zextByte b).toNat = a.toNat + b.toNat := by
  have ha := a.isLt
  have hb := b.isLt
  rw [BitVec.toNat_add, zextNnn_toNat, zextByte_toNat, Nat.mod_eq_of_lt (by omega)]

/-- Settles O19: the jump is one write of `PC`, and from 0xFFF the fetch reads its second byte at 0x1000. -/
theorem jumpSetsProgramCounter : Obligations.JumpSetsProgramCounter := by
  refine ⟨fun _ => decode_group1, fun a s => ?_⟩
  have hpc : (s.setPc (zextNnn a)).pc.toNat = a.toNat := zextNnn_toNat a
  refine ⟨_, exec_jp a s, hpc, fun hend => ?_, changesOnly_setPc s _⟩
  rw [State.fetch_error _ (by omega), hpc, hend]
  rfl

/-- Settles O20: the jump is one write of `PC` with an exact sum, and a fetch from above 0xFFE leaves `MEM`. -/
theorem jumpWithOffsetAddsV0 : Obligations.JumpWithOffsetAddsV0 := by
  refine ⟨fun _ => decode_groupB, fun a s => ?_⟩
  have hpc : (s.setPc (zextNnn a + zextByte (s.getV 0))).pc.toNat = a.toNat + (s.getV 0).toNat :=
    zextNnn_add_zextByte_toNat a (s.getV 0)
  refine ⟨_, exec_jpV0 a s, hpc, fun hbeyond => ?_, changesOnly_setPc s _⟩
  exact ⟨_, lt_max_of_lt_right (by decide), State.fetch_error _ (by omega)⟩

end Sys2Proof.Machine
end

section
namespace Sys2Proof

theorem fieldX_eq_x (op : Word) : fieldX op = Claims.x op :=
  Fin.ext (fieldX_val op)

theorem fieldY_eq_y (op : Word) : fieldY op = Claims.y op :=
  Fin.ext (fieldY_val op)

theorem fieldKk_eq_kk (op : Word) : fieldKk op = Claims.kk op :=
  BitVec.eq_of_toNat_eq (fieldKk_toNat op)

theorem fieldN_of_n {op : Word} {k : Nat} (h : Claims.n op = k) : fieldN op = BitVec.ofNat 4 k := by
  rw [← h, Claims.n, ← fieldN_toNat, BitVec.ofNat_toNat, BitVec.setWidth_eq]

/-- Group 0x6 is the load of an immediate (30_encoding.md R87). -/
theorem decode_group6 {op : Word} (h : Claims.grp op = 0x6) :
    decode op = some (.ldVxKk (Claims.x op) (Claims.kk op)) := by
  simp only [decode, fieldGrp_of_grp h, fieldX_eq_x, fieldKk_eq_kk]

/-- Group 0x8 dispatches on its low nibble (30_encoding.md R87). -/
theorem decode_group8 {op : Word} (h : Claims.grp op = 0x8) : decode op = decodeGroup8 op := by
  simp only [decode, fieldGrp_of_grp h]

/-- `8XY0` is the copy of a register. -/
theorem decode_8XY0 {op : Word} (hgrp : Claims.grp op = 0x8) (hn : Claims.n op = 0) :
    decode op = some (.ldVxVy (Claims.x op) (Claims.y op)) := by
  simp only [decode_group8 hgrp, decodeGroup8, fieldN_of_n hn, fieldX_eq_x, fieldY_eq_y]

/-- `8XY4` is the add. -/
theorem decode_8XY4 {op : Word} (hgrp : Claims.grp op = 0x8) (hn : Claims.n op = 4) :
    decode op = some (.addVxVy (Claims.x op) (Claims.y op)) := by
  simp only [decode_group8 hgrp, decodeGroup8, fieldN_of_n hn, fieldX_eq_x, fieldY_eq_y]

end Sys2Proof

namespace Sys2Proof.Machine

theorem exec_ldVxKk (x : RegIx) (b : Byte) (s : State) : exec (.ldVxKk x b) s = .next (s.setV x b) := rfl

theorem exec_ldVxVy (x y : RegIx) (s : State) : exec (.ldVxVy x y) s = .next (s.setV x (s.getV y)) := rfl

/-- The add reads both operands before it writes, so no policy enters (41_alu.md R120, R127). -/
theorem exec_addVxVy (x y : RegIx) (s : State) :
    exec (.addVxVy x y) s =
      .next (s.writeFlagResult x (flagByte (carryOut (s.getV x) (s.getV y))) (s.getV x + s.getV y)) := rfl

theorem State.writeFlagResult_getV_self (s : State) (x : RegIx) (f r : Byte) :
    (s.writeFlagResult x f r).getV x = r := by
  rw [State.writeFlagResult_getV, if_pos rfl]

/-- The flag stands where the result does not overwrite it. -/
theorem State.writeFlagResult_getV_VF (s : State) {x : RegIx} (f r : Byte) (h : x ≠ VF) :
    (s.writeFlagResult x f r).getV VF = f := by
  rw [State.writeFlagResult_getV, if_neg h.symm, if_pos rfl]

theorem flagByte_toNat (c : Bool) : (flagByte c).toNat = if c = true then 1 else 0 := by
  cases c <;> rfl

theorem carryOut_eq_true_iff (a b : Byte) : carryOut a b = true ↔ a.toNat + b.toNat > 255 :=
  decide_eq_true_iff

/-- Settles O30: the flag is the carry of the old operands, and the result, written last, stands at `x = 0xF`. -/
theorem addSetsCarry : Obligations.AddSetsCarry := by
  refine ⟨fun _ => decode_8XY4, fun vx vy s => ?_⟩
  refine ⟨_, exec_addVxVy vx vy s, ?result, fun hx => ?flag, regsKept_writeFlagResult s vx _ _,
    changesOnly_writeFlagResult s vx _ _⟩
  case result => rw [State.writeFlagResult_getV_self, BitVec.toNat_add]
  case flag => rw [State.writeFlagResult_getV_VF s _ _ hx, flagByte_toNat]; simp only [carryOut_eq_true_iff]

/-- Settles O27: each load is one register write. -/
theorem loadsWriteOneRegister : Obligations.LoadsWriteOneRegister := by
  refine ⟨fun _ => decode_group6, fun _ => decode_8XY0, fun s => ⟨fun vx b => ?imm, fun vx vy => ?copy⟩⟩
  case imm =>
    exact ⟨_, exec_ldVxKk vx b s, s.getV_setV_self vx b, regsKept_setV s vx b, changesOnly_setV s vx b⟩
  case copy =>
    exact ⟨_, exec_ldVxVy vx vy s, s.getV_setV_self vx _, regsKept_setV s vx _, changesOnly_setV s vx _⟩

end Sys2Proof.Machine
end

section
namespace Sys2Proof

/-- Group 0xA is the load of the index (30_encoding.md R87). -/
theorem decode_groupA {op : Word} (h : Claims.grp op = 0xA) : decode op = some (.ldI (Claims.nnn op)) := by
  simp only [decode, fieldGrp_of_grp h, fieldNnn_eq_nnn]

end Sys2Proof

namespace Sys2Proof.Machine

theorem exec_ldI (a : BitVec 12) (s : State) : exec (.ldI a) s = .next (s.setI (zextNnn a)) := rfl

/-- Settles O37: the load is one write of `I`, and the extension by zeros keeps the value. -/
theorem loadIndexImmediate : Obligations.LoadIndexImmediate := by
  refine ⟨fun _ => decode_groupA, fun a s => ⟨_, exec_ldI a s, ?value, changesOnly_setI s _⟩⟩
  case value => rw [State.setI_i, zextNnn_toNat]

end Sys2Proof.Machine
end

section
namespace Sys2Proof.Machine

/-- A draw whose sprite rows lie in `MEM` writes the framebuffer, then the flag register (43_display.md R152). -/
theorem exec_drw_inRange {n : Nat} {s : State} (h : n = 0 ∨ s.i.toNat + n ≤ 0x1000) (x y : RegIx) :
    exec (.drw x y n) s =
      .next ((s.setFb (s.drawSprite (s.getV x) (s.getV y) n).1).setV VF
        (flagByte (s.drawSprite (s.getV x) (s.getV y) n).2)) := by
  simp only [exec, execDrw, (rangeFault_none_iff (s.ea 0) n).2 h]

/-- The pixels after a draw, whose flag write leaves them (43_display.md R152). -/
theorem State.pixel_drawn (s : State) (vx vy f : Byte) {n : Nat} (hn : n < 16) (cx : Fin 64) (cy : Fin 32) :
    ((s.setFb (s.drawSprite vx vy n).1).setV VF f).pixel cx cy =
      xor (s.pixel cx cy) (s.spriteAt vx vy n cx cy) := by
  rw [State.pixel_setV, State.pixel_setFb, State.drawSprite_get s vx vy n (by omega)]

/-- Settles O48: the draw XORs the sprite bit into each pixel, and its flag is `State.drawSprite_collides`. -/
theorem collisionIsSetBitOnSetPixel : Obligations.CollisionIsSetBitOnSetPixel := by
  intro vx vy rows s hwf hrange
  have hrows : rows < 16 := of_decide_eq_true hwf
  have hflag := s.drawSprite_collides (s.getV vx) (s.getV vy) rows (by omega)
  refine ⟨_, exec_drw_inRange (by omega) vx vy, fun cx cy => ?collides, fun cx cy hbit => ?kept,
    fun cx cy hbit hclear => ?sets, fun hsome => ?flagSet, fun hnone => ?flagClear⟩
  case collides =>
    refine and_congr_right fun hset => ?_
    rw [s.pixel_drawn _ _ _ hrows, hset, Bool.true_xor, Bool.not_eq_false']
  case kept => rw [s.pixel_drawn _ _ _ hrows, hbit, Bool.xor_false]
  case sets => rw [s.pixel_drawn _ _ _ hrows, hclear, hbit, Bool.false_xor]
  case flagSet => rw [State.getV_setV_self, flagByte_toNat, if_pos (hflag.2 hsome)]
  case flagClear =>
    have hno := mt hflag.1 fun ⟨cx, cy, hboth⟩ => hnone cx cy hboth
    rw [State.getV_setV_self, flagByte_toNat, if_neg hno]

theorem exec_cls (s : State) : exec .cls s = .next (s.setFb Framebuffer.clear) := rfl

end Sys2Proof.Machine

namespace Sys2Proof

/-- The word 0x00E0 is the clear (30_encoding.md R87). -/
theorem decode_00E0 {op : Word} (h : op.toNat = 0x00E0) : decode op = some .cls := by
  rw [show op = 0x00E0#16 from BitVec.eq_of_toNat_eq h]
  decide

end Sys2Proof

namespace Sys2Proof.Machine

/-- Settles O46: the clear is one write of the framebuffer. -/
theorem clearScreenClearsEveryPixel : Obligations.ClearScreenClearsEveryPixel := by
  refine ⟨fun _ => decode_00E0, fun s => ⟨_, exec_cls s, fun cx cy => ?cleared, changesOnly_setFb s _⟩⟩
  case cleared => rw [State.pixel_setFb, Framebuffer.get_clear]

end Sys2Proof.Machine
end

section
namespace Sys2Proof

/-- Settles O1: a packed word gives its fields back, so each format of R85 decodes by its own dispatch; the row
count of a well-formed draw fits its nibble. -/
theorem decodeOfEncode : Obligations.DecodeOfEncode := by
  intro i hwf
  cases i
  case cls | ret => rfl
  case jp | call | ldI | jpV0 => simp [encode, decode]
  case seVxKk | sneVxKk | ldVxKk | addVxKk | rnd => simp [encode, decode]
  case seVxVy | sneVxVy => simp [encode, decode]
  case ldVxVy | orVxVy | andVxVy | xorVxVy | addVxVy | subVxVy | shrVx | subnVxVy | shlVx =>
    simp [encode, decode, decodeGroup8]
  case skp | sknp => simp [encode, decode, decodeGroupE]
  case ldVxDt | ldVxK | ldDtVx | ldStVx | addIVx | ldFVx | ldBVx | ldMemIVx | ldVxMemI =>
    simp [encode, decode, decodeGroupF]
  case drw x y n =>
    have hn : n < 16 := of_decide_eq_true hwf
    simp [encode, decode, Nat.mod_eq_of_lt hn]

/-! ### A word from the fields that its dispatch has read -/

theorem packNnn_of_fields {op : Word} {g : BitVec 4} {a : BitVec 12} (hg : fieldGrp op = g)
    (ha : fieldNnn op = a) : packNnn g a = op :=
  hg ▸ ha ▸ packNnn_fields op

theorem packXKk_of_fields {op : Word} {g : BitVec 4} {b : Byte} (hg : fieldGrp op = g) (hb : fieldKk op = b) :
    packXKk g (fieldX op) b = op :=
  hg ▸ hb ▸ packXKk_fields op

theorem packXYN_of_fields {op : Word} {g n : BitVec 4} (hg : fieldGrp op = g) (hn : fieldN op = n) :
    packXYN g (fieldX op) (fieldY op) n = op :=
  hg ▸ hn ▸ packXYN_fields op

theorem encode_of_decodeGroup0 {op : Word} {i : Instr} (hg : fieldGrp op = 0x0#4)
    (h : decodeGroup0 op = some i) : i.wellFormed = true ∧ encode i = op := by
  unfold decodeGroup0 at h
  split at h
  case h_1 hn => cases h; exact ⟨rfl, packNnn_of_fields hg hn⟩
  case h_2 hn => cases h; exact ⟨rfl, packNnn_of_fields hg hn⟩
  case h_3 => cases h

theorem encode_of_decodeGroup8 {op : Word} {i : Instr} (hg : fieldGrp op = 0x8#4)
    (h : decodeGroup8 op = some i) : i.wellFormed = true ∧ encode i = op := by
  unfold decodeGroup8 at h
  split at h
  case h_10 => cases h
  all_goals
    rename_i hn
    cases h
    exact ⟨rfl, packXYN_of_fields hg hn⟩

theorem encode_of_decodeGroupE {op : Word} {i : Instr} (hg : fieldGrp op = 0xE#4)
    (h : decodeGroupE op = some i) : i.wellFormed = true ∧ encode i = op := by
  unfold decodeGroupE at h
  split at h
  case h_3 => cases h
  all_goals
    rename_i hkk
    cases h
    exact ⟨rfl, packXKk_of_fields hg hkk⟩

theorem encode_of_decodeGroupF {op : Word} {i : Instr} (hg : fieldGrp op = 0xF#4)
    (h : decodeGroupF op = some i) : i.wellFormed = true ∧ encode i = op := by
  unfold decodeGroupF at h
  split at h
  case h_10 => cases h
  all_goals
    rename_i hkk
    cases h
    exact ⟨rfl, packXKk_of_fields hg hkk⟩

/-- Groups 0x5 and 0x9: the one instruction of the group, if the low nibble is 0. -/
theorem encode_of_zeroNibble {op : Word} {i j : Instr} {g : BitVec 4} (hg : fieldGrp op = g)
    (hj : j.wellFormed = true) (hword : encode j = packXYN g (fieldX op) (fieldY op) 0x0#4)
    (h : (if fieldN op = 0x0#4 then some j else none) = some i) : i.wellFormed = true ∧ encode i = op := by
  split at h
  · cases h
    exact ⟨hj, hword.trans (packXYN_of_fields hg ‹_›)⟩
  · cases h

/-- Settles O2: the fields a dispatch has read, packed again, are the word. -/
theorem encodeOfDecode : Obligations.EncodeOfDecode := by
  intro op i h
  unfold decode at h
  split at h
  case h_1 hg => exact encode_of_decodeGroup0 hg h
  case h_6 hg => exact encode_of_zeroNibble hg rfl rfl h
  case h_9 hg => exact encode_of_decodeGroup8 hg h
  case h_10 hg => exact encode_of_zeroNibble hg rfl rfl h
  case h_14 hg =>
    cases h
    refine ⟨decide_eq_true (fieldN op).isLt, ?_⟩
    exact packXYN_of_fields hg ((BitVec.ofNat_toNat 4 _).trans (BitVec.setWidth_eq _)).symm
  case h_15 hg => exact encode_of_decodeGroupE hg h
  case h_16 hg => exact encode_of_decodeGroupF hg h
  case h_17 => cases h
  case h_2 hg | h_3 hg | h_11 hg | h_12 hg => cases h; exact ⟨rfl, packNnn_of_fields hg rfl⟩
  case h_4 hg | h_5 hg | h_7 hg | h_8 hg | h_13 hg => cases h; exact ⟨rfl, packXKk_of_fields hg rfl⟩

/-! ### Decode by group, in the arithmetic fields of the statements (30_encoding.md R87) -/

theorem decode_group0 {op : Word} (h : Claims.grp op = 0x0) : decode op = decodeGroup0 op := by
  simp only [decode, fieldGrp_of_grp h]

theorem decode_group2 {op : Word} (h : Claims.grp op = 0x2) : decode op = some (.call (Claims.nnn op)) := by
  simp only [decode, fieldGrp_of_grp h, fieldNnn_eq_nnn]

theorem decode_group3 {op : Word} (h : Claims.grp op = 0x3) :
    decode op = some (.seVxKk (Claims.x op) (Claims.kk op)) := by
  simp only [decode, fieldGrp_of_grp h, fieldX_eq_x, fieldKk_eq_kk]

theorem decode_group4 {op : Word} (h : Claims.grp op = 0x4) :
    decode op = some (.sneVxKk (Claims.x op) (Claims.kk op)) := by
  simp only [decode, fieldGrp_of_grp h, fieldX_eq_x, fieldKk_eq_kk]

theorem fieldN_eq_zero_iff (op : Word) : fieldN op = 0x0#4 ↔ Claims.n op = 0 := by
  rw [← BitVec.toNat_inj, fieldN_toNat]
  rfl

theorem decode_group5 {op : Word} (h : Claims.grp op = 0x5) :
    decode op = if Claims.n op = 0 then some (.seVxVy (Claims.x op) (Claims.y op)) else none := by
  simp only [decode, fieldGrp_of_grp h, fieldX_eq_x, fieldY_eq_y, fieldN_eq_zero_iff]

theorem decode_group7 {op : Word} (h : Claims.grp op = 0x7) :
    decode op = some (.addVxKk (Claims.x op) (Claims.kk op)) := by
  simp only [decode, fieldGrp_of_grp h, fieldX_eq_x, fieldKk_eq_kk]

theorem decode_group9 {op : Word} (h : Claims.grp op = 0x9) :
    decode op = if Claims.n op = 0 then some (.sneVxVy (Claims.x op) (Claims.y op)) else none := by
  simp only [decode, fieldGrp_of_grp h, fieldX_eq_x, fieldY_eq_y, fieldN_eq_zero_iff]

theorem decode_groupC {op : Word} (h : Claims.grp op = 0xC) :
    decode op = some (.rnd (Claims.x op) (Claims.kk op)) := by
  simp only [decode, fieldGrp_of_grp h, fieldX_eq_x, fieldKk_eq_kk]

theorem decode_groupD {op : Word} (h : Claims.grp op = 0xD) :
    decode op = some (.drw (Claims.x op) (Claims.y op) (Claims.n op)) := by
  simp only [decode, fieldGrp_of_grp h, fieldX_eq_x, fieldY_eq_y, fieldN_toNat, Claims.n]

theorem decode_groupE {op : Word} (h : Claims.grp op = 0xE) : decode op = decodeGroupE op := by
  simp only [decode, fieldGrp_of_grp h]

theorem decode_groupF {op : Word} (h : Claims.grp op = 0xF) : decode op = decodeGroupF op := by
  simp only [decode, fieldGrp_of_grp h]

theorem grp_lt (op : Word) : Claims.grp op < 16 := by
  have := op.isLt
  unfold Claims.grp
  omega

/-! ### The words that no row of a group admits (30_encoding.md R88) -/

theorem decodeGroup0_eq_none_iff {op : Word} (hg : Claims.grp op = 0x0) :
    decodeGroup0 op = none ↔ op.toNat ≠ 0x00E0 ∧ op.toNat ≠ 0x00EE := by
  have hnnn : (fieldNnn op).toNat = op.toNat := by
    rw [fieldNnn_toNat]
    unfold Claims.grp at hg
    omega
  unfold decodeGroup0
  split
  all_goals simp_all [← BitVec.toNat_inj]

theorem fieldN_toNat_eq_n (op : Word) : (fieldN op).toNat = Claims.n op := fieldN_toNat op

theorem decodeGroup8_eq_none_iff (op : Word) :
    decodeGroup8 op = none ↔ Claims.n op ∈ [0x8, 0x9, 0xA, 0xB, 0xC, 0xD, 0xF] := by
  have hlt : Claims.n op < 16 := Nat.mod_lt _ (by decide)
  unfold decodeGroup8
  simp only [← fieldN_toNat_eq_n, List.mem_cons, List.not_mem_nil, or_false] at hlt ⊢
  split
  case h_10 => simp_all only [← BitVec.toNat_inj, imp_false, BitVec.toNat_ofNat, true_iff]; omega
  all_goals simp [*]

theorem decodeGroupE_eq_none_iff (op : Word) :
    decodeGroupE op = none ↔ (Claims.kk op).toNat ∉ [0x9E, 0xA1] := by
  unfold decodeGroupE
  rw [fieldKk_eq_kk]
  split
  all_goals simp_all [← BitVec.toNat_inj]

theorem decodeGroupF_eq_none_iff (op : Word) :
    decodeGroupF op = none ↔
      (Claims.kk op).toNat ∉ [0x07, 0x0A, 0x15, 0x18, 0x1E, 0x29, 0x33, 0x55, 0x65] := by
  unfold decodeGroupF
  rw [fieldKk_eq_kk]
  split
  all_goals simp_all [← BitVec.toNat_inj]

/-- Settles O4: group by group, by the dispatch of the group. -/
theorem illegalWordsByGroup : Obligations.IllegalWordsByGroup := by
  intro op
  have hlt := grp_lt op
  interval_cases hg : Claims.grp op
  · simp [decode_group0 hg, decodeGroup0_eq_none_iff hg]
  · simp [decode_group1 hg]
  · simp [decode_group2 hg]
  · simp [decode_group3 hg]
  · simp [decode_group4 hg]
  · simp [decode_group5 hg]
  · simp [decode_group6 hg]
  · simp [decode_group7 hg]
  · simp [decode_group8 hg, decodeGroup8_eq_none_iff]
  · simp [decode_group9 hg]
  · simp [decode_groupA hg]
  · simp [decode_groupB hg]
  · simp [decode_groupC hg]
  · simp [decode_groupD hg]
  · simp [decode_groupE hg, decodeGroupE_eq_none_iff]
  · simp [decode_groupF hg, decodeGroupF_eq_none_iff]

/-! ### The opcode map (30_encoding.md R84, R87) -/

/-- Two rows that agree on the bits both fix are one row. -/
theorem opcodeMap_disjoint : ∀ r ∈ opcodeMap, ∀ q ∈ opcodeMap,
    r.pattern &&& q.mask = q.pattern &&& r.mask → r = q := by
  decide

/-- The patterns of two rows of one word agree on the bits both fix. -/
theorem patterns_agree {op : Word} {r q : OpcodeRow} (hr : op &&& r.mask = r.pattern)
    (hq : op &&& q.mask = q.pattern) : r.pattern &&& q.mask = q.pattern &&& r.mask := by
  rw [← hr, ← hq, BitVec.and_assoc, BitVec.and_assoc, BitVec.and_comm r.mask]

/-- Every row fixes the group. -/
theorem grp_of_row {op : Word} {row : OpcodeRow} (hrow : row ∈ opcodeMap)
    (h : op &&& row.mask = row.pattern) : Claims.grp op = Claims.grp row.pattern := by
  have hmask : ∀ row ∈ opcodeMap, fieldGrp row.mask = BitVec.allOnes 4 := by decide
  have hgrp : fieldGrp (op &&& row.mask) = fieldGrp op := by
    rw [fieldGrp, BitVec.extractLsb'_and]
    exact (congrArg _ (hmask row hrow)).trans BitVec.and_allOnes
  rw [Claims.grp, ← fieldGrp_toNat, ← hgrp, h, fieldGrp_toNat]
  rfl

theorem n_and_F00F (op : Word) : Claims.n (op &&& 0xF00F#16) = Claims.n op := by
  rw [← fieldN_toNat_eq_n, fieldN, BitVec.extractLsb'_and]
  exact (congrArg BitVec.toNat BitVec.and_allOnes).trans (fieldN_toNat_eq_n op)

theorem kk_and_F0FF (op : Word) : Claims.kk (op &&& 0xF0FF#16) = Claims.kk op := by
  rw [← fieldKk_eq_kk, fieldKk, BitVec.extractLsb'_and]
  exact BitVec.and_allOnes.trans (fieldKk_eq_kk op)

/-- What the four masks of R87 leave of a row: a whole word, a group, a group and a low nibble, a group and a low
byte; none of them is illegal by R88. -/
theorem opcodeMap_masks : ∀ row ∈ opcodeMap,
    (row.mask = 0xFFFF#16 ∧ row.pattern.toNat ∈ [0x00E0, 0x00EE]) ∨
    (row.mask = 0xF000#16 ∧ Claims.grp row.pattern ∉ [0x0, 0x5, 0x8, 0x9, 0xE, 0xF]) ∨
    (row.mask = 0xF00F#16 ∧ Claims.grp row.pattern ∈ [0x5, 0x9] ∧ Claims.n row.pattern = 0) ∨
    (row.mask = 0xF00F#16 ∧ Claims.grp row.pattern = 0x8 ∧
      Claims.n row.pattern ∉ [0x8, 0x9, 0xA, 0xB, 0xC, 0xD, 0xF]) ∨
    (row.mask = 0xF0FF#16 ∧ Claims.grp row.pattern = 0xE ∧ (Claims.kk row.pattern).toNat ∈ [0x9E, 0xA1]) ∨
    (row.mask = 0xF0FF#16 ∧ Claims.grp row.pattern = 0xF ∧
      (Claims.kk row.pattern).toNat ∈ [0x07, 0x0A, 0x15, 0x18, 0x1E, 0x29, 0x33, 0x55, 0x65]) := by
  decide

/-- A word of a row is legal (30_encoding.md R84, R88). -/
theorem decode_ne_none_of_row {op : Word} {row : OpcodeRow} (hrow : row ∈ opcodeMap)
    (h : op &&& row.mask = row.pattern) : decode op ≠ none := by
  have hgrp := grp_of_row hrow h
  obtain ⟨hm, hp⟩ | ⟨hm, hp⟩ | ⟨hm, hp, hn⟩ | ⟨hm, hp, hn⟩ | ⟨hm, hp, hkk⟩ | ⟨hm, hp, hkk⟩ :=
    opcodeMap_masks row hrow
  all_goals rw [hm] at h
  case inl =>
    have hop : op = row.pattern := BitVec.and_allOnes.symm.trans h
    have hg : Claims.grp op = 0 := by
      rw [hop, Claims.grp]
      simp only [List.mem_cons, List.not_mem_nil, or_false] at hp
      omega
    rw [decode_group0 hg, Ne, decodeGroup0_eq_none_iff hg, hop]
    simpa [or_iff_not_imp_left] using hp
  case inr.inl =>
    rw [← hgrp] at hp
    rw [Ne, illegalWordsByGroup op]
    simp_all
  case inr.inr.inl =>
    rw [← h, n_and_F00F] at hn
    rw [← hgrp] at hp
    obtain hg | hg : Claims.grp op = 0x5 ∨ Claims.grp op = 0x9 := by simpa using hp
    · simp [decode_group5 hg, hn]
    · simp [decode_group9 hg, hn]
  case inr.inr.inr.inl =>
    rwa [decode_group8 (hgrp.trans hp), Ne, decodeGroup8_eq_none_iff, ← n_and_F00F, h]
  case inr.inr.inr.inr.inl =>
    rw [decode_groupE (hgrp.trans hp), Ne, decodeGroupE_eq_none_iff, ← kk_and_F0FF, h]
    exact not_not_intro hkk
  case inr.inr.inr.inr.inr =>
    rw [decode_groupF (hgrp.trans hp), Ne, decodeGroupF_eq_none_iff, ← kk_and_F0FF, h]
    exact not_not_intro hkk

/-- The word of every instruction is a word of the row of its name. -/
theorem encode_matches_row : (i : Instr) → Laws.EncodeRow.Statement i
  | .cls => Laws.EncodeRow.cls
  | .ret => Laws.EncodeRow.ret
  | .jp a => Laws.EncodeRow.jp a
  | .call a => Laws.EncodeRow.call a
  | .seVxKk x b => Laws.EncodeRow.seVxKk x b
  | .sneVxKk x b => Laws.EncodeRow.sneVxKk x b
  | .seVxVy x y => Laws.EncodeRow.seVxVy x y
  | .ldVxKk x b => Laws.EncodeRow.ldVxKk x b
  | .addVxKk x b => Laws.EncodeRow.addVxKk x b
  | .ldVxVy x y => Laws.EncodeRow.ldVxVy x y
  | .orVxVy x y => Laws.EncodeRow.orVxVy x y
  | .andVxVy x y => Laws.EncodeRow.andVxVy x y
  | .xorVxVy x y => Laws.EncodeRow.xorVxVy x y
  | .addVxVy x y => Laws.EncodeRow.addVxVy x y
  | .subVxVy x y => Laws.EncodeRow.subVxVy x y
  | .shrVx x y => Laws.EncodeRow.shrVx x y
  | .subnVxVy x y => Laws.EncodeRow.subnVxVy x y
  | .shlVx x y => Laws.EncodeRow.shlVx x y
  | .sneVxVy x y => Laws.EncodeRow.sneVxVy x y
  | .ldI a => Laws.EncodeRow.ldI a
  | .jpV0 a => Laws.EncodeRow.jpV0 a
  | .rnd x b => Laws.EncodeRow.rnd x b
  | .drw x y n => Laws.EncodeRow.drw x y n
  | .skp x => Laws.EncodeRow.skp x
  | .sknp x => Laws.EncodeRow.sknp x
  | .ldVxDt x => Laws.EncodeRow.ldVxDt x
  | .ldVxK x => Laws.EncodeRow.ldVxK x
  | .ldDtVx x => Laws.EncodeRow.ldDtVx x
  | .ldStVx x => Laws.EncodeRow.ldStVx x
  | .addIVx x => Laws.EncodeRow.addIVx x
  | .ldFVx x => Laws.EncodeRow.ldFVx x
  | .ldBVx x => Laws.EncodeRow.ldBVx x
  | .ldMemIVx x => Laws.EncodeRow.ldMemIVx x
  | .ldVxMemI x => Laws.EncodeRow.ldVxMemI x

/-- Settles O3: a decoded word is the encoding of its instruction, a word of a row is legal, and two rows of one
word agree where both fix a bit, which two different rows never do. -/
theorem decodeIsExactMatchOnOpcodeMap : Obligations.DecodeIsExactMatchOnOpcodeMap := by
  refine ⟨fun op i h => ?decoded, fun op h row hrow hmatch => decode_ne_none_of_row hrow hmatch h,
    fun op r hr q hq hopr hopq => opcodeMap_disjoint r hr q hq (patterns_agree hopr hopq)⟩
  case decoded =>
    obtain ⟨-, rfl⟩ := encodeOfDecode op i h
    exact encode_matches_row i

/-- Settles O6: the eighteen words, each decoded. -/
theorem specWordsDecode : Obligations.SpecWordsDecode := by
  unfold Obligations.SpecWordsDecode
  decide

end Sys2Proof
end

section
namespace Sys2Proof.Machine

/-! ### One cycle, case by case (10_state.md R39) -/

theorem step_of_reset {s : State} (h : s.input.reset = true) : step s = .next s.applyReset.consumeInput := by
  simp only [step, h, if_true]

theorem step_of_halted {s : State} {r : FaultRecord} (hreset : s.input.reset = false) (hf : s.fault = some r) :
    step s = s.haltedCycle r := by
  simp [step, hreset, hf]

theorem step_of_not_halted {s : State} (hreset : s.input.reset = false) (hf : s.fault = none) :
    step s = completeCycle (engine s.beginCycle) := by
  simp [step, hreset, hf]

theorem engine_of_run {s : State} (h : s.mode = .run) : engine s = engineStep s := by
  simp only [engine, h]

theorem engine_of_waitKey {s : State} {x : RegIx} (h : s.mode = .waitKey x) :
    engine s = .next (s.engineWait x) := by
  simp only [engine, h]

theorem engineStep_of_decode_none {s : State} {op : Word} (hfetch : s.fetch = .ok op)
    (hdec : decode op = none) : engineStep s = .next (s.decodeFault op) := by
  simp only [engineStep, hfetch, hdec]

theorem engineStep_of_decode_some {s : State} {op : Word} {i : Instr} (hfetch : s.fetch = .ok op)
    (hdec : decode op = some i) : engineStep s = exec i s.advance := by
  simp only [engineStep, hfetch, hdec]

/-- What the engine part of a running core can answer (30_encoding.md R94). -/
theorem engineStep_cases {s u : State} (h : engineStep s = .next u) :
    (∃ bad, 0xFFF < bad ∧ u = s.fetchFault bad) ∨
      (∃ op, decode op = none ∧ u = s.decodeFault op) ∨
      ∃ op i, decode op = some i ∧ exec i s.advance = .next u := by
  by_cases hpc : 0xFFF < s.pc.toNat + 1
  · rw [engineStep_of_fetch_error (s.fetch_error hpc)] at h
    cases h
    exact .inl ⟨_, lt_max_of_lt_right (by decide), rfl⟩
  · have hfetch := s.fetch_ok (Nat.le_of_not_lt hpc)
    cases hdec : decode (joinBytes (s.mem.read s.pc.toNat) (s.mem.read (s.pc.toNat + 1))) with
    | none =>
      rw [engineStep_of_decode_none hfetch hdec] at h
      cases h
      exact .inr (.inl ⟨_, hdec, rfl⟩)
    | some i =>
      rw [engineStep_of_decode_some hfetch hdec] at h
      exact .inr (.inr ⟨_, i, hdec, h⟩)

/-- What the engine part of a cycle can answer: a poll of the key wait, or an instruction. -/
theorem engine_cases {s u : State} (h : engine s = .next u) :
    (∃ x, s.mode = .waitKey x ∧ u = s.engineWait x) ∨ (s.mode = .run ∧ engineStep s = .next u) := by
  cases hm : s.mode with
  | run => exact .inr ⟨rfl, (engine_of_run hm).symm.trans h⟩
  | waitKey x =>
    rw [engine_of_waitKey hm] at h
    cases h
    exact .inl ⟨x, rfl, rfl⟩

theorem completeCycle_cases {o : Host.Outcome State Fault Refusal} {t : State}
    (h : completeCycle o = .next t) : ∃ u, o = .next u ∧ t = u.endCycle := by
  cases o with
  | next u => cases h; exact ⟨u, rfl, rfl⟩
  | fault r => cases h
  | refused r => cases h

/-- What a step can answer: a reset, a cycle of the halted core, or a cycle of the running one. -/
theorem step_cases {s t : State} (h : step s = .next t) :
    t = s.applyReset.consumeInput ∨ (s.fault ≠ none ∧ t = s.beginCycle.consumeInput) ∨
      (s.fault = none ∧ ∃ u, engine s.beginCycle = .next u ∧ t = u.endCycle) := by
  cases hreset : s.input.reset with
  | true =>
    rw [step_of_reset hreset] at h
    cases h
    exact .inl rfl
  | false =>
    cases hf : s.fault with
    | none =>
      rw [step_of_not_halted hreset hf] at h
      exact .inr (.inr ⟨rfl, completeCycle_cases h⟩)
    | some r =>
      rw [step_of_halted hreset hf] at h
      obtain ⟨-, hh⟩ | ⟨-, hh⟩ := s.haltedCycle_cases r
      · rw [hh] at h; cases h
      · rw [hh] at h; cases h; exact .inr (.inl ⟨by simp, rfl⟩)

/-! ### The poll of a key wait (44_keys_timers.md R164) -/

theorem State.engineWait_of_key {s : State} {k : BitVec 4} (h : s.input.key = some k) (x : RegIx) :
    s.engineWait x = (s.setV x (k.setWidth 8)).setMode .run := by
  simp only [State.engineWait, h]

theorem State.engineWait_of_no_key {s : State} (h : s.input.key = none) (x : RegIx) : s.engineWait x = s := by
  simp only [State.engineWait, h]

theorem changesOnly_engineWait (s : State) (x : RegIx) : ChangesOnly [.regs, .mode] s (s.engineWait x) := by
  cases h : s.input.key with
  | none => rw [State.engineWait_of_no_key h]; exact ChangesOnly.refl _ s
  | some k =>
    rw [State.engineWait_of_key h]
    exact (changesOnly_setV s x _).append (changesOnly_setMode _ _)

theorem State.engineWait_mem (s : State) (x : RegIx) : (s.engineWait x).mem = s.mem := by
  cases h : s.input.key with
  | none => rw [State.engineWait_of_no_key h]
  | some k => rw [State.engineWait_of_key h]; rfl

/-! ### The end of a cycle (60_exceptions.md R184, R185) -/

theorem State.endCycle_of_fault {s : State} (h : s.fault ≠ none) : s.endCycle = s.consumeInput := by
  simp [State.endCycle, Option.isSome_iff_ne_none.2 h]

theorem State.endCycle_of_safe {s : State} (h : s.fault = none) :
    s.endCycle = s.schedulerCount.consumeInput := by
  simp [State.endCycle, h]

theorem State.schedulerCount_of_tick {s : State} (h : s.cyc + 1 = s.cfg.tickDiv) :
    s.schedulerCount = (s.setCyc 0).tick := by
  simp only [State.schedulerCount, h, if_true]

theorem State.schedulerCount_of_no_tick {s : State} (h : s.cyc + 1 ≠ s.cfg.tickDiv) :
    s.schedulerCount = s.setCyc (s.cyc + 1) := by
  simp only [State.schedulerCount, h, if_false]

theorem State.schedulerCount_frame (s : State) : ChangesOnly [.dt, .st, .cyc, .refresh] s s.schedulerCount := by
  by_cases h : s.cyc + 1 = s.cfg.tickDiv
  · rw [State.schedulerCount_of_tick h]
    exact (((changesOnly_setCyc s 0).append (changesOnly_setDt _ _)).append
      ((changesOnly_setSt _ _).append (changesOnly_setRefresh _ true))).mono (by decide)
  · rw [State.schedulerCount_of_no_tick h]
    exact (changesOnly_setCyc s _).mono (by decide)

theorem State.endCycle_mem (s : State) : s.endCycle.mem = s.mem := by
  by_cases hf : s.fault = none
  · rw [State.endCycle_of_safe hf, State.consumeInput_mem]
    by_cases h : s.cyc + 1 = s.cfg.tickDiv
    · rw [State.schedulerCount_of_tick h]; rfl
    · rw [State.schedulerCount_of_no_tick h]; rfl
  · rw [State.endCycle_of_fault hf, State.consumeInput_mem]

theorem State.schedulerCount_inputs (s : State) :
    s.schedulerCount.inputs = s.inputs ∧ s.schedulerCount.inputCount = s.inputCount :=
  s.schedulerCount_frame .inputs (by decide)

theorem State.endCycle_inputs (s : State) :
    s.endCycle.inputs = s.inputs.tail ∧ s.endCycle.inputCount = s.inputCount + 1 := by
  obtain ⟨hin, hcount⟩ := s.schedulerCount_inputs
  by_cases hf : s.fault = none
  · rw [State.endCycle_of_safe hf, State.consumeInput_inputs, State.consumeInput_inputCount, hin, hcount]
    exact ⟨rfl, rfl⟩
  · rw [State.endCycle_of_fault hf]
    exact ⟨rfl, rfl⟩

/-- Settles O16: the three cases of the end of a cycle, each a run of single updates. -/
theorem endOfCycleCountsAndTicks : Obligations.EndOfCycleCountsAndTicks := by
  intro u
  refine ⟨fun hf htick => ?tick, fun hf hcount => ?count, fun hf => ?faulted, u.endCycle_frame⟩
  case tick =>
    rw [State.endCycle_of_safe hf, State.schedulerCount_of_tick htick]
    exact ⟨rfl, countDown_toNat u.dt, countDown_toNat u.st, rfl⟩
  case count =>
    rw [State.endCycle_of_safe hf, State.schedulerCount_of_no_tick hcount]
    exact ⟨rfl, (changesOnly_setCyc u _).append (changesOnly_consumeInput _)⟩
  case faulted =>
    rw [State.endCycle_of_fault hf]
    exact changesOnly_consumeInput u

end Sys2Proof.Machine
end

section
namespace Sys2Proof.Machine

/-! ### What the engine part of a cycle keeps -/

section
variable {ps : List Part} {s t : State} (h : ChangesOnly ps s t)
include h

theorem ChangesOnly.getV_eq (k : RegIx) (hp : .regs ∉ ps := by decide) : t.getV k = s.getV k := h .regs hp k
theorem ChangesOnly.index_eq (hp : .index ∉ ps := by decide) : t.i = s.i := h .index hp
theorem ChangesOnly.pc_eq (hp : .pc ∉ ps := by decide) : t.pc = s.pc := h .pc hp
theorem ChangesOnly.read_eq (a : Nat) (hp : .mem ∉ ps := by decide) : t.mem.read a = s.mem.read a := h .mem hp a
theorem ChangesOnly.mode_eq (hp : .mode ∉ ps := by decide) : t.mode = s.mode := h .mode hp
theorem ChangesOnly.cyc_eq (hp : .cyc ∉ ps := by decide) : t.cyc = s.cyc := h .cyc hp
theorem ChangesOnly.fault_eq (hp : .fault ∉ ps := by decide) : t.fault = s.fault := h .fault hp
theorem ChangesOnly.cfg_eq (hp : .cfg ∉ ps := by decide) : t.cfg = s.cfg := h .cfg hp
theorem ChangesOnly.inputs_eq (hp : .inputs ∉ ps := by decide) :
    t.inputs = s.inputs ∧ t.inputCount = s.inputCount := h .inputs hp

end

/-- The engine part keeps the count, the parameters and the inputs, and `MEM` canonical. -/
theorem engine_keeps {s u : State} (h : engine s = .next u) :
    u.cyc = s.cyc ∧ u.cfg = s.cfg ∧ u.inputs = s.inputs ∧ u.inputCount = s.inputCount ∧
      (s.mem.wf = true → u.mem.wf = true) := by
  obtain ⟨x, -, rfl⟩ | ⟨-, h⟩ := engine_cases h
  · have hframe := changesOnly_engineWait s x
    obtain ⟨hin, hcount⟩ := hframe.inputs_eq
    exact ⟨hframe.cyc_eq, hframe.cfg_eq, hin, hcount, by rw [s.engineWait_mem]; exact id⟩
  · obtain ⟨bad, -, rfl⟩ | ⟨op, -, rfl⟩ | ⟨op, i, -, hexec⟩ := engineStep_cases h
    · exact ⟨rfl, rfl, rfl, rfl, id⟩
    · exact ⟨rfl, rfl, rfl, rfl, id⟩
    · obtain ⟨hcyc, -, hcfg, hin, hcount, hwf, -⟩ := exec_cases hexec
      exact ⟨hcyc, hcfg, hin, hcount, hwf⟩

/-! ### Precise records (60_exceptions.md R178) -/

theorem precise_fetchFault {s : State} {bad : Nat} (h : 0xFFF < bad) :
    (FaultRecord.mk .outOfRangeAddress s.pc none (some bad)).precise s.pc = true := by
  simp [FaultRecord.precise, h]

theorem precise_decodeFault {pc : Word} {op : Word} (h : decode op = none) :
    (FaultRecord.mk .unknownOpcode pc (some op) none).precise (pc + 2#16) = true := by
  simp [FaultRecord.precise, h]

/-- The record of an execute fault names a word that decodes, since the encoding of a decoded instruction is the
word fetched (`encodeOfDecode`). -/
theorem precise_execFault {op : Word} {i : Instr} (hdec : decode op = some i) {k : FaultKind} {a : Nat} (pc : Word)
    (hk : (k = .outOfRangeAddress ∧ 0xFFF < a) ∨ (k = .stackOutOfRange ∧ i = .ret ∧ 15 < a)) :
    (FaultRecord.mk k (pc - 2#16) (some (encode i)) (some a)).precise pc = true := by
  obtain ⟨-, henc⟩ := encodeOfDecode op i hdec
  have hpc : pc = pc - 2#16 + 2#16 := (BitVec.sub_add_cancel _ _).symm
  obtain ⟨rfl, ha⟩ | ⟨rfl, rfl, ha⟩ := hk
  · simp [FaultRecord.precise, ← hpc, ha, henc, hdec]
  · simp [FaultRecord.precise, ← hpc, ha, encode]

/-- The engine part of a safe core leaves it safe, or halts it in `RUN` with a precise record. -/
theorem engine_fault {s u : State} (hs : s.fault = none) (h : engine s = .next u) :
    u.fault = none ∨ (u.mode = .run ∧ ∃ r, u.fault = some r ∧ r.precise u.pc = true) := by
  obtain ⟨x, -, rfl⟩ | ⟨hrun, h⟩ := engine_cases h
  · exact .inl ((changesOnly_engineWait s x).fault_eq.trans hs)
  · obtain ⟨bad, hbad, rfl⟩ | ⟨op, hdec, rfl⟩ | ⟨op, i, hdec, hexec⟩ := engineStep_cases h
    · exact .inr ⟨hrun, _, rfl, precise_fetchFault hbad⟩
    · exact .inr ⟨hrun, _, rfl, precise_decodeFault hdec⟩
    · obtain ⟨-, -, -, -, -, -, hsame | ⟨k, a, rfl, hk⟩⟩ := exec_cases hexec
      · exact .inl (hsame.trans hs)
      · exact .inr ⟨hrun, _, rfl, precise_execFault hdec _ hk⟩

/-! ### The invariant -/

theorem State.Inv.applyReset {s : State} (h : s.Inv) : s.applyReset.Inv := by
  obtain ⟨hmem, hcyc, -, -⟩ := h
  exact ⟨hmem, Nat.zero_lt_of_lt hcyc, fun _ => rfl, rfl⟩

theorem State.Inv.beginCycle {s : State} (h : s.Inv) : s.beginCycle.Inv := h

theorem State.Inv.consumeInput {s : State} (h : s.Inv) : s.consumeInput.Inv := h

theorem State.Inv.engine {s u : State} (h : s.Inv) (hs : s.fault = none) (hu : engine s = .next u) : u.Inv := by
  obtain ⟨hmem, hlt, -, -⟩ := h
  obtain ⟨hcyc, hcfg, -, -, hwf⟩ := engine_keeps hu
  refine ⟨hwf hmem, by rwa [hcyc, hcfg], ?_⟩
  obtain hf | ⟨hrun, r, hf, hprecise⟩ := engine_fault hs hu
  · simp [hf]
  · simp [hf, hrun, hprecise]

/-- The end of a cycle counts only in a safe core, and stays below `TICK_DIV`. -/
theorem State.Inv.endCycle {s : State} (h : s.Inv) : s.endCycle.Inv := by
  by_cases hf : s.fault = none
  · obtain ⟨hmem, hlt, -, -⟩ := h
    have hframe := s.endCycle_frame
    have hsafe : s.endCycle.fault = none := hframe.fault_eq.trans hf
    have hcfg : s.endCycle.cfg = s.cfg := hframe.cfg_eq
    refine ⟨s.endCycle_mem ▸ hmem, ?_, by simp [hsafe], by simp [hsafe]⟩
    rw [hcfg, State.endCycle_of_safe hf]
    exact s.schedulerCount_cyc_lt hlt
  · rw [State.endCycle_of_fault hf]
    exact h.consumeInput

/-- Settles O10: each of the three kinds of cycle keeps the invariant, part by part. -/
theorem stepKeepsInvariant : Obligations.StepKeepsInvariant := by
  intro s t hinv h
  obtain rfl | ⟨-, rfl⟩ | ⟨hsafe, u, hu, rfl⟩ := step_cases h
  · exact hinv.applyReset.consumeInput
  · exact hinv.beginCycle.consumeInput
  · exact (hinv.beginCycle.engine hsafe hu).endCycle

/-- Settles O11: nothing is listed, `CYC` is 0 and no fault is recorded. -/
theorem resetMeetsInvariant : Obligations.ResetMeetsInvariant := by
  refine ⟨State.reset_mem_wf, ?cyc, fun hf => ?mode, rfl⟩
  case cyc => decide
  case mode => cases hf

/-- Settles O12: by the kinds of cycle. -/
theorem stepKeepsParametersAndSamplesOnce : Obligations.StepKeepsParametersAndSamplesOnce := by
  intro s t h
  obtain rfl | ⟨-, rfl⟩ | ⟨-, u, hu, rfl⟩ := step_cases h
  · exact ⟨rfl, rfl, rfl⟩
  · exact ⟨rfl, rfl, rfl⟩
  · obtain ⟨-, hcfg, hin, hcount, -⟩ := engine_keeps hu
    obtain ⟨hin', hcount'⟩ := u.endCycle_inputs
    exact ⟨u.endCycle_frame.cfg_eq.trans hcfg, by rw [hin', hin]; rfl, by rw [hcount', hcount]; rfl⟩

/-- Settles O14: `State.haltedCycle` by whether an input is pending. -/
theorem haltedCoreIsFrozen : Obligations.HaltedCoreIsFrozen := by
  intro s r hf hreset
  rw [step_of_halted hreset hf]
  obtain ⟨hnil, h⟩ | ⟨hpending, h⟩ := s.haltedCycle_cases r
  · exact ⟨fun _ => h, fun hne => absurd hnil hne⟩
  · refine ⟨fun he => absurd he hpending, fun _ => ⟨_, h, ?_⟩⟩
    exact (changesOnly_setRefresh s false).append (changesOnly_consumeInput _)

theorem State.applyReset_getV (s : State) (k : RegIx) : s.applyReset.getV k = 0#8 := by
  simp [State.applyReset, State.getV]

/-- Settles O15: the step is `State.applyReset`, which leaves the memories and the parameters. -/
theorem resetInputRestoresRegisters : Obligations.ResetInputRestoresRegisters := by
  intro s h
  refine ⟨_, step_of_reset h, fun k => ?_, rfl, rfl, rfl, rfl, rfl, rfl, rfl, rfl, rfl, fun _ => rfl, fun _ => rfl,
    fun _ _ => rfl, rfl⟩
  rw [State.getV_consumeInput, State.applyReset_getV]
  rfl

/-! ### Fetch and decode faults -/

/-- A cycle whose engine part faults ends without count and tick. -/
theorem step_of_engine_fault {s u : State} (hreset : s.input.reset = false) (hf : s.fault = none)
    (hu : engine s.beginCycle = .next u) (hfault : u.fault ≠ none) : step s = .next u.consumeInput := by
  rw [step_of_not_halted hreset hf, hu, completeCycle, State.endCycle_of_fault hfault]

theorem changesOnly_decodeFault (s : State) (op : Word) : ChangesOnly [.pc, .fault] s (s.decodeFault op) :=
  (changesOnly_setPc s _).append (changesOnly_setFault _ _)

/-- Settles O13: each fault is the engine part's answer, and the faulting cycle only uses up its inputs. -/
theorem fetchAndDecodeFaultsHaltCore : Obligations.FetchAndDecodeFaultsHaltCore := by
  intro s hreset hf hrun
  have hengine : engine s.beginCycle = engineStep s.beginCycle := engine_of_run hrun
  have hbegin := changesOnly_setRefresh s false
  refine ⟨fun hpc => ?fetch, fun hpc op hop hdec => ?decode⟩
  case fetch =>
    have hfetch := s.beginCycle.fetch_error (Nat.lt_succ_of_le hpc)
    have hu := hengine.trans (engineStep_of_fetch_error hfetch)
    refine ⟨_, step_of_engine_fault hreset hf hu (by simp [State.fetchFault]), rfl, ?_⟩
    exact ((hbegin.append (changesOnly_fetchFault _ _)).append (changesOnly_consumeInput _)).mono (by decide)
  case decode =>
    have hfetch := s.beginCycle.fetch_ok hpc
    have hu := hengine.trans (engineStep_of_decode_none hfetch (hop ▸ hdec))
    refine ⟨_, step_of_engine_fault hreset hf hu (by simp [State.decodeFault]), hop ▸ rfl, rfl, ?_⟩
    exact ((hbegin.append (changesOnly_decodeFault _ _)).append (changesOnly_consumeInput _)).mono (by decide)

/-! ### A cycle that runs an instruction -/

/-- A core about to run `i` answers with `i`'s execute stage, completed by the end of the cycle. -/
theorem step_of_aboutToRun {s : State} {i : Instr} (h : Claims.AboutToRun s i) :
    step s = completeCycle (exec i (Claims.preState s)) := by
  obtain ⟨hreset, hf, hrun, hpc, hdec⟩ := h
  rw [step_of_not_halted hreset hf]
  exact congrArg completeCycle ((engine_of_run (s := s.beginCycle) hrun).trans
    (engineStep_of_decode_some (s.beginCycle.fetch_ok hpc) hdec))

/-- Settles O9: the outcome of the execute stage, completed by the end of the cycle. -/
theorem stepRunsDecodedInstruction : Obligations.StepRunsDecodedInstruction := by
  intro s i hrun
  rw [step_of_aboutToRun hrun]
  refine ⟨fun t h hsafe => ?safe, fun t h hfault => ?faulted, fun r h => ?refused⟩
  case safe => rw [h, completeCycle, State.endCycle_of_safe hsafe]
  case faulted => rw [h, completeCycle, State.endCycle_of_fault hfault]
  case refused => rw [h, completeCycle]

/-! ### Cycles that tick -/

theorem exec_ldVxDt (x : RegIx) (s : State) : exec (.ldVxDt x) s = .next (s.setV x s.dt) := rfl

theorem exec_ldDtVx (x : RegIx) (s : State) : exec (.ldDtVx x) s = .next (s.setDt (s.getV x)) := rfl

theorem exec_ldStVx (x : RegIx) (s : State) : exec (.ldStVx x) s = .next (s.setSt (s.getV x)) := rfl

theorem State.snd_iff (s : State) : s.snd = true ↔ s.st.toNat ≠ 0 := by
  simp [State.snd, ← BitVec.toNat_inj]

/-- Settles O51: each move is one write. -/
theorem timerMoves : Obligations.TimerMoves := by
  intro vx s
  refine ⟨⟨_, exec_ldVxDt vx s, s.getV_setV_self vx _, regsKept_setV s vx _, changesOnly_setV s vx _⟩,
    ⟨_, exec_ldDtVx vx s, rfl, changesOnly_setDt s _⟩, ⟨_, exec_ldStVx vx s, rfl, changesOnly_setSt s _, ?_⟩⟩
  rw [State.snd_iff, State.setSt_st]

/-- A ticking cycle of a core about to run `i`, which takes no fault. -/
theorem step_of_aboutToRun_tick {s u : State} {i : Instr} (h : Claims.AboutToRun s i)
    (hexec : exec i (Claims.preState s) = .next u) (hf : u.fault = none) (htick : u.cyc + 1 = u.cfg.tickDiv) :
    step s = .next ((u.setCyc 0).tick).consumeInput := by
  rw [step_of_aboutToRun h, hexec, completeCycle, State.endCycle_of_safe hf, State.schedulerCount_of_tick htick]

/-- Settles O17: the tick counts down the timers that the instruction has left. -/
theorem tickFollowsInstruction : Obligations.TickFollowsInstruction := by
  intro s vx htick
  refine ⟨fun h => ?readDt, fun h => ?writeDt, fun h => ?writeSt⟩
  all_goals have ⟨_, hf, _⟩ := h
  case readDt =>
    refine ⟨_, step_of_aboutToRun_tick h (exec_ldVxDt vx _) hf htick, ?_, countDown_toNat _⟩
    exact State.getV_setV_self _ vx _
  case writeDt =>
    exact ⟨_, step_of_aboutToRun_tick h (exec_ldDtVx vx _) hf htick, countDown_toNat _⟩
  case writeSt =>
    have hst : (countDown (s.getV vx)).toNat = (s.getV vx).toNat - 1 := countDown_toNat _
    refine ⟨_, step_of_aboutToRun_tick h (exec_ldStVx vx _) hf htick, hst, ?_⟩
    rw [State.snd_iff]
    exact hst ▸ Nat.sub_ne_zero_iff_lt

/-- A cycle whose engine part `u` has left the count, the timers and the parameters as in `s`. -/
theorem countsCycle_endCycle {s u : State} (hf : u.fault = none) (hcyc : u.cyc = s.cyc) (hcfg : u.cfg = s.cfg)
    (hdt : u.dt = s.dt) (hst : u.st = s.st) (hrefresh : u.refresh = false) : Claims.CountsCycle s u.endCycle := by
  rw [State.endCycle_of_safe hf]
  refine ⟨fun htick => ?tick, fun hcount => ?count⟩
  case tick =>
    rw [← hcyc, ← hcfg] at htick
    rw [State.schedulerCount_of_tick htick, ← hdt, ← hst]
    exact ⟨rfl, countDown_toNat _, countDown_toNat _, rfl⟩
  case count =>
    rw [← hcyc, ← hcfg] at hcount
    rw [State.schedulerCount_of_no_tick hcount, ← hcyc, ← hdt, ← hst]
    exact ⟨rfl, rfl, rfl, hrefresh⟩

theorem step_of_waitKey {s : State} {x : RegIx} (hreset : s.input.reset = false) (hf : s.fault = none)
    (hwait : s.mode = .waitKey x) : step s = .next (s.beginCycle.engineWait x).endCycle := by
  rw [step_of_not_halted hreset hf, engine_of_waitKey (s := s.beginCycle) hwait, completeCycle]

/-- Settles O18: the poll, then the end of a cycle that counts. -/
theorem keyWaitPollsOncePerCycle : Obligations.KeyWaitPollsOncePerCycle := by
  intro s vx hreset hf hwait
  rw [step_of_waitKey hreset hf hwait]
  have hbegin := changesOnly_setRefresh s false
  refine ⟨fun hkey => ⟨_, rfl, ?_⟩, fun k hkey => ⟨_, rfl, ?_⟩⟩
  · rw [State.engineWait_of_no_key (s := s.beginCycle) hkey]
    refine ⟨countsCycle_endCycle hf rfl rfl rfl rfl rfl, ?_⟩
    exact (hbegin.append (State.endCycle_frame _)).mono (by decide)
  · rw [State.engineWait_of_key (s := s.beginCycle) hkey]
    have hend := State.endCycle_frame ((s.beginCycle.setV vx (k.setWidth 8)).setMode .run)
    refine ⟨countsCycle_endCycle hf rfl rfl rfl rfl rfl, ?value, hend.mode_eq, fun j hj => ?kept, ?frame⟩
    case value =>
      rw [hend.getV_eq, State.getV_setMode, State.getV_setV_self]
      exact BitVec.toNat_setWidth_of_le (by decide)
    case kept =>
      rw [hend.getV_eq]
      exact regsKept_setV s.beginCycle vx _ j hj
    case frame =>
      exact (((hbegin.append (changesOnly_setV _ _ _)).append (changesOnly_setMode _ _)).append hend).mono (by decide)

/-! ### The end of a program (70_reset_and_hazards.md R210) -/

/-- The word of a finished program is the jump to `PC`. -/
theorem selfJump_eq_encode {pc : Word} (h : pc.toNat < 4096) :
    0x1000#16 ||| pc = encode (.jp (pc.setWidth 12)) := by
  apply BitVec.eq_of_toNat_eq
  rw [BitVec.toNat_or, encode, packNnn, BitVec.toNat_append, BitVec.toNat_setWidth, Nat.mod_eq_of_lt h]
  rfl

theorem zextNnn_setWidth {pc : Word} (h : pc.toNat < 4096) : zextNnn (pc.setWidth 12) = pc := by
  apply BitVec.eq_of_toNat_eq
  rw [zextNnn_toNat, BitVec.toNat_setWidth, Nat.mod_eq_of_lt h]

theorem State.Finished.of_frame {s t : State} (h : s.Finished)
    (hframe : ChangesOnly [.dt, .st, .cyc, .refresh, .inputs] s t) : t.Finished := by
  obtain ⟨hrun, hf, hpc, hword⟩ := h
  refine ⟨hframe.mode_eq.trans hrun, hframe.fault_eq.trans hf, ?_, ?_⟩
  · rwa [hframe.pc_eq]
  · rwa [hframe.pc_eq, hframe.read_eq, hframe.read_eq]

/-- A finished core is about to run the jump to its own address. -/
theorem State.Finished.aboutToRun {s : State} (h : s.Finished) (hreset : s.input.reset = false) :
    Claims.AboutToRun s (.jp (s.pc.setWidth 12)) := by
  obtain ⟨hrun, hf, hpc, hword⟩ := h
  refine ⟨hreset, hf, hrun, hpc, ?_⟩
  rw [hword, selfJump_eq_encode (Nat.lt_succ_of_lt hpc)]
  exact decodeOfEncode _ rfl

/-- Settles O58: the jump takes the advance of `PC` back, so the cycle only counts. -/
theorem finishedProgramStaysFinished : Obligations.FinishedProgramStaysFinished := by
  intro s hfin hreset
  have ⟨_, hf, hpc, _⟩ := hfin
  have hback : exec (.jp (s.pc.setWidth 12)) (Claims.preState s) = .next s.beginCycle := by
    rw [exec_jp, zextNnn_setWidth (Nat.lt_succ_of_lt hpc)]
    rfl
  have hframe : ChangesOnly [.dt, .st, .cyc, .refresh, .inputs] s s.beginCycle.endCycle :=
    ((changesOnly_setRefresh s false).append (State.endCycle_frame _)).mono (by decide)
  refine ⟨_, ?_, hfin.of_frame hframe, hframe⟩
  rw [step_of_aboutToRun (hfin.aboutToRun hreset), hback, completeCycle]

end Sys2Proof.Machine
end

section
namespace Sys2Proof.Machine

/-! ### Skips (40_flow.md R104 to R109, 44_keys_timers.md R161, R162) -/

theorem exec_seVxKk (x : RegIx) (b : Byte) (s : State) :
    exec (.seVxKk x b) s = .next (s.skipIf (s.getV x == b)) := rfl

theorem exec_sneVxKk (x : RegIx) (b : Byte) (s : State) :
    exec (.sneVxKk x b) s = .next (s.skipIf (s.getV x != b)) := rfl

theorem exec_seVxVy (x y : RegIx) (s : State) :
    exec (.seVxVy x y) s = .next (s.skipIf (s.getV x == s.getV y)) := rfl

theorem exec_sneVxVy (x y : RegIx) (s : State) :
    exec (.sneVxVy x y) s = .next (s.skipIf (s.getV x != s.getV y)) := rfl

theorem exec_skp (x : RegIx) (s : State) :
    exec (.skp x) s = .next (s.skipIf (keyEquals s.input.key (s.getV x))) := rfl

theorem exec_sknp (x : RegIx) (s : State) :
    exec (.sknp x) s = .next (s.skipIf (!keyEquals s.input.key (s.getV x))) := rfl

theorem State.skipIf_pc_toNat (s : State) (c : Bool) :
    (s.skipIf c).pc.toNat = (s.pc.toNat + if c = true then 2 else 0) % 65536 := by
  rw [State.skipIf_eq]
  cases c
  · exact (Nat.mod_eq_of_lt s.pc.isLt).symm
  · exact BitVec.toNat_add _ _

/-- A skip on equality adds 2 to `PC` exactly when the bytes are equal. -/
theorem State.skipIf_beq_pc (s : State) (a b : Byte) :
    (s.skipIf (a == b)).pc.toNat = (s.pc.toNat + if a.toNat = b.toNat then 2 else 0) % 65536 := by
  simp only [State.skipIf_pc_toNat, beq_iff_eq, BitVec.toNat_inj]

/-- A skip on inequality is its complement. -/
theorem State.skipIf_bne_pc (s : State) (a b : Byte) :
    (s.skipIf (a != b)).pc.toNat = (s.pc.toNat + if a.toNat = b.toNat then 0 else 2) % 65536 := by
  simp only [State.skipIf_pc_toNat, bne_iff_ne, BitVec.toNat_inj, ne_eq, ite_not]

/-- Settles O21: the skip of each group on the comparison of its bytes. -/
theorem skipsOnImmediate : Obligations.SkipsOnImmediate := by
  refine ⟨fun _ => decode_group3, fun _ => decode_group4, fun vx b s => ⟨?eq, ?ne⟩⟩
  case eq => exact ⟨_, exec_seVxKk vx b s, s.skipIf_beq_pc _ _, changesOnly_skipIf s _⟩
  case ne => exact ⟨_, exec_sneVxKk vx b s, s.skipIf_bne_pc _ _, changesOnly_skipIf s _⟩

/-- Settles O22: as on an immediate, with the strict low nibble of the two groups. -/
theorem skipsOnRegisters : Obligations.SkipsOnRegisters := by
  refine ⟨fun _ => decode_group5, fun _ => decode_group9, fun vx vy s => ⟨?eq, ?ne⟩⟩
  case eq => exact ⟨_, exec_seVxVy vx vy s, s.skipIf_beq_pc _ _, changesOnly_skipIf s _⟩
  case ne => exact ⟨_, exec_sneVxVy vx vy s, s.skipIf_bne_pc _ _, changesOnly_skipIf s _⟩

theorem keyEquals_iff (key : Option (BitVec 4)) (b : Byte) :
    keyEquals key b = true ↔ ∃ k, key = some k ∧ k.toNat = b.toNat := by
  cases key with
  | none => simp [keyEquals]
  | some k =>
    have hk : (k.setWidth 8).toNat = k.toNat := BitVec.toNat_setWidth_of_le (by decide)
    simp only [keyEquals, beq_iff_eq, ← BitVec.toNat_inj (x := k.setWidth 8), hk, Option.some.injEq,
      exists_eq_left']

end Sys2Proof.Machine

namespace Sys2Proof

/-- `EX9E` and `EXA1` by the low byte of group 0xE (30_encoding.md R87). -/
theorem decode_EX9E {op : Word} (hg : Claims.grp op = 0xE) (hkk : (Claims.kk op).toNat = 0x9E) :
    decode op = some (.skp (Claims.x op)) := by
  have hb : Claims.kk op = 0x9E#8 := BitVec.eq_of_toNat_eq hkk
  simp only [decode_groupE hg, decodeGroupE, fieldKk_eq_kk, hb, fieldX_eq_x]

theorem decode_EXA1 {op : Word} (hg : Claims.grp op = 0xE) (hkk : (Claims.kk op).toNat = 0xA1) :
    decode op = some (.sknp (Claims.x op)) := by
  have hb : Claims.kk op = 0xA1#8 := BitVec.eq_of_toNat_eq hkk
  simp only [decode_groupE hg, decodeGroupE, fieldKk_eq_kk, hb, fieldX_eq_x]

end Sys2Proof

namespace Sys2Proof.Machine

theorem State.skipIf_taken_pc (s : State) {c : Bool} (h : c = true) :
    (s.skipIf c).pc.toNat = (s.pc.toNat + 2) % 65536 := by
  rw [State.skipIf_pc_toNat, if_pos h]

theorem State.skipIf_not_taken_pc (s : State) {c : Bool} (h : ¬ c = true) : (s.skipIf c).pc = s.pc := by
  rw [State.skipIf_eq, if_neg h, State.setPc_pc]

/-- Settles O50: the comparison is `keyEquals_iff`, and the two skips are complements. -/
theorem keySkipsCompareHeldKey : Obligations.KeySkipsCompareHeldKey := by
  refine ⟨fun _ => decode_EX9E, fun _ => decode_EXA1, fun vx s => ?_⟩
  have hheld := keyEquals_iff s.input.key (s.getV vx)
  refine ⟨⟨_, exec_skp vx s, changesOnly_skipIf s _, fun h => ?_, fun h => ?_⟩,
    ⟨_, exec_sknp vx s, changesOnly_skipIf s _, fun h => ?_, fun h => ?_⟩⟩
  · exact s.skipIf_taken_pc (hheld.2 h)
  · exact s.skipIf_not_taken_pc (mt hheld.1 h)
  · exact s.skipIf_taken_pc (by simpa using mt hheld.1 h)
  · exact s.skipIf_not_taken_pc (by simpa using hheld.2 h)

/-! ### Call and return (40_flow.md R101, R103) -/

theorem exec_call (a : BitVec 12) (s : State) :
    exec (.call a) s = .next (((s.setSp (s.sp + 1#8)).stkWrite (s.sp + 1#8) s.pc).setPc (zextNnn a)) := rfl

theorem exec_ret_some {s : State} (h : s.sp.toNat < 16) :
    exec .ret s = .next ((s.setPc s.stk[s.sp.toNat]).setSp (s.sp - 1#8)) := by
  simp only [exec, execRet, s.stkRead_some s.sp h]

theorem exec_ret_none {s : State} (h : 16 ≤ s.sp.toNat) :
    exec .ret s = .next (s.execFault .ret .stackOutOfRange s.sp.toNat) := by
  simp only [exec, execRet, s.stkRead_none s.sp h]

/-- Settles O23: the slot that is written is the one the incremented `SP` names, if there is one. -/
theorem callPushesReturnAddress : Obligations.CallPushesReturnAddress := by
  refine ⟨fun _ => decode_group2, fun a s => ⟨_, exec_call a s, ?sp, zextNnn_toNat a, fun k => ?slot, ?frame⟩⟩
  case sp =>
    rw [State.setPc_sp, State.stkWrite_eq, State.setStk_sp, State.setSp_sp]
    exact BitVec.toNat_add _ _
  case slot => exact State.stkWrite_slot _ _ _ k
  case frame =>
    exact (((changesOnly_setSp s _).append (changesOnly_stkWrite _ _ _)).append (changesOnly_setPc _ _)).mono
      (by decide)

/-- Settles O24: the slot exists, so it is read before `SP` goes down; 255 is -1 modulo 256. -/
theorem returnPopsAddress : Obligations.ReturnPopsAddress := by
  intro s h
  refine ⟨_, exec_ret_some h, rfl, ?_, (changesOnly_setPc s _).append (changesOnly_setSp _ _)⟩
  rw [State.setSp_sp, BitVec.toNat_sub, Nat.add_comm]
  rfl

/-- Settles O25: the check of the slot comes before any write. -/
theorem returnOutsideStackFaults : Obligations.ReturnOutsideStackFaults := by
  intro s h
  exact ⟨_, exec_ret_none h, rfl, changesOnly_execFault s _ _ _⟩

/-- Settles O26: the call fills the slot of its new `SP`, which is below 16, and the return reads that slot. -/
theorem callThenReturnComesBack : Obligations.CallThenReturnComesBack := by
  intro s a h
  obtain ⟨t, ht, hsp, -, hslot, -⟩ := callPushesReturnAddress.2 a s
  refine ⟨t, ht, fun u husp hustk => ?_⟩
  have husp' : u.sp.toNat = s.sp.toNat + 1 := by rw [husp, hsp]; omega
  have hlt : u.sp.toNat < 16 := by omega
  refine ⟨_, exec_ret_some hlt, ?pc, ?sp⟩
  case pc =>
    have hk := hslot ⟨u.sp.toNat, hlt⟩
    rw [if_pos (by show u.sp.toNat = _; omega)] at hk
    simpa [hustk] using hk
  case sp =>
    apply BitVec.eq_of_toNat_eq
    rw [State.setSp_sp, BitVec.toNat_sub, husp', BitVec.toNat_ofNat]
    omega

/-! ### Loads, adds, logic (41_alu.md R121 to R126, R132) -/

theorem exec_addVxKk (x : RegIx) (b : Byte) (s : State) :
    exec (.addVxKk x b) s = .next (s.setV x (s.getV x + b)) := rfl

theorem exec_orVxVy (x y : RegIx) (s : State) :
    exec (.orVxVy x y) s = .next (s.setV x (s.getV x ||| s.getV y)) := rfl

theorem exec_andVxVy (x y : RegIx) (s : State) :
    exec (.andVxVy x y) s = .next (s.setV x (s.getV x &&& s.getV y)) := rfl

theorem exec_xorVxVy (x y : RegIx) (s : State) :
    exec (.xorVxVy x y) s = .next (s.setV x (s.getV x ^^^ s.getV y)) := rfl

theorem exec_rnd (x : RegIx) (b : Byte) (s : State) :
    exec (.rnd x b) s = .next (s.setV x (s.randomByte &&& b)) := rfl

/-- Settles O28: one register write, of the sum modulo 256. -/
theorem addImmediateWrapsWithoutFlag : Obligations.AddImmediateWrapsWithoutFlag := by
  refine ⟨fun _ => decode_group7, fun vx b s => ?_⟩
  refine ⟨_, exec_addVxKk vx b s, ?_, regsKept_setV s vx _, changesOnly_setV s vx _⟩
  rw [State.getV_setV_self, BitVec.toNat_add]

/-- Settles O29: one register write each, of the bitwise operation. -/
theorem logicIsBitwise : Obligations.LogicIsBitwise := by
  intro vx vy s
  refine ⟨⟨_, exec_orVxVy vx vy s, regsKept_setV s vx _, changesOnly_setV s vx _, fun j => ?or⟩,
    ⟨_, exec_andVxVy vx vy s, regsKept_setV s vx _, changesOnly_setV s vx _, fun j => ?and⟩,
    ⟨_, exec_xorVxVy vx vy s, regsKept_setV s vx _, changesOnly_setV s vx _, fun j => ?xor⟩⟩
  case or => rw [State.getV_setV_self, BitVec.getLsbD_or]
  case and => rw [State.getV_setV_self, BitVec.getLsbD_and]
  case xor => rw [State.getV_setV_self, BitVec.getLsbD_xor]

theorem State.randomByte_of_override {s : State} {o : Byte} (h : s.cfg.rngOverride = some o) :
    s.randomByte = o := by
  simp only [State.randomByte, h]

theorem State.randomByte_of_input {s : State} (h : s.cfg.rngOverride = none) : s.randomByte = s.input.rnd := by
  simp only [State.randomByte, h]

/-- Settles O36: one register write, of the masked byte that the parameter or the input gives. -/
theorem randomByteIsMasked : Obligations.RandomByteIsMasked := by
  intro vx b s
  refine ⟨_, exec_rnd vx b s, regsKept_setV s vx _, changesOnly_setV s vx _, fun o j h => ?_, fun j h => ?_⟩
  · rw [State.getV_setV_self, State.randomByte_of_override h, BitVec.getLsbD_and]
  · rw [State.getV_setV_self, State.randomByte_of_input h, BitVec.getLsbD_and]

/-! ### Index register (42_index_memory.md R142, R143) -/

theorem exec_addIVx (x : RegIx) (s : State) :
    exec (.addIVx x) s = .next (s.setI (s.i + zextByte (s.getV x))) := rfl

theorem exec_ldFVx (x : RegIx) (s : State) : exec (.ldFVx x) s = .next (s.setI (glyphAddr (s.getV x))) := rfl

/-- Five times a byte fits in 16 bits. -/
theorem glyphAddr_toNat (d : Byte) : (glyphAddr d).toNat = d.toNat * 5 := by
  have := d.isLt
  exact Nat.mod_eq_of_lt (by show d.toNat * 5 < 65536; omega)

/-- Settles O38: one write of `I` each. -/
theorem indexArithmetic : Obligations.IndexArithmetic := by
  intro vx s
  refine ⟨⟨_, exec_addIVx vx s, ?_, changesOnly_setI s _⟩,
    ⟨_, exec_ldFVx vx s, glyphAddr_toNat _, changesOnly_setI s _⟩⟩
  rw [State.setI_i, BitVec.toNat_add, zextByte_toNat]

/-! ### The execute stage of the key wait (44_keys_timers.md R164) -/

theorem exec_ldVxK_of_key {s : State} {k : BitVec 4} (h : s.input.key = some k) (x : RegIx) :
    exec (.ldVxK x) s = .next (s.setV x (k.setWidth 8)) := by
  simp only [exec, execLdVxK, h]

theorem exec_ldVxK_of_no_key {s : State} (h : s.input.key = none) (x : RegIx) :
    exec (.ldVxK x) s = .next (s.setMode (.waitKey x)) := by
  simp only [exec, execLdVxK, h]

/-- Settles O52: by the key of this cycle. -/
theorem keyWaitCompletesOrSuspends : Obligations.KeyWaitCompletesOrSuspends := by
  intro vx s
  cases hkey : s.input.key with
  | none =>
    refine ⟨_, exec_ldVxK_of_no_key hkey vx, fun _ _ => rfl, nofun, fun _ => ⟨rfl, changesOnly_setMode s _⟩⟩
  | some k =>
    refine ⟨_, exec_ldVxK_of_key hkey vx, regsKept_setV s vx _, fun k' hk => ?_, nofun⟩
    cases hk
    rw [State.getV_setV_self]
    exact ⟨BitVec.toNat_setWidth_of_le (by decide), changesOnly_setV s vx _⟩

end Sys2Proof.Machine
end

section
namespace Sys2Proof.Machine

/-! ### Flag-writing rows (41_alu.md R120) -/

theorem exec_subVxVy (x y : RegIx) (s : State) :
    exec (.subVxVy x y) s = s.aluFlagged (oneIsVF x y) x y greater (fun a b => a - b) := rfl

theorem exec_subnVxVy (x y : RegIx) (s : State) :
    exec (.subnVxVy x y) s = s.aluFlagged (oneIsVF x y) x y (fun a b => greater b a) (fun a b => a - b) := rfl

theorem exec_shrVx (x y : RegIx) (s : State) :
    exec (.shrVx x y) s = s.aluFlagged (decide (x = VF)) x y (fun a _ => lowBitOut a) (fun a _ => a >>> 1) := rfl

theorem exec_shlVx (x y : RegIx) (s : State) :
    exec (.shlVx x y) s = s.aluFlagged (decide (x = VF)) x y (fun a _ => highBitOut a) (fun a _ => a <<< 1) := rfl

/-- Under the two policies that give every form a meaning: the flag, then the result of the operands as the policy
reads them. -/
theorem State.aluFlagged_of_not_refuse {s : State} (h : s.cfg.vfAlias ≠ .refuse) (al : Bool) (x y : RegIx)
    (fl : Byte → Byte → Bool) (rs : Byte → Byte → Byte) :
    s.aluFlagged al x y fl rs = .next (s.writeFlagResult x (flagByte (fl (s.getV x) (s.getV y)))
      (rs (if s.cfg.vfAlias = .sequential ∧ x = VF then flagByte (fl (s.getV x) (s.getV y)) else s.getV x)
        (if s.cfg.vfAlias = .sequential ∧ y = VF then flagByte (fl (s.getV x) (s.getV y)) else s.getV y))) := by
  obtain ⟨r, hr, hold, hseq⟩ | ⟨hrefuse, -, -⟩ := s.aluFlagged_cases al x y fl rs
  · rw [hr]
    by_cases hp : s.cfg.vfAlias = .sequential
    · simp only [hseq hp, hp, true_and]
    · simp only [hold hp, hp, false_and, if_false]
  · exact absurd hrefuse h

theorem byte_sub_toNat (a b : Byte) : (a - b).toNat = (a.toNat + 256 - b.toNat) % 256 := by
  have := b.isLt
  rw [BitVec.toNat_sub]
  omega

/-- A subtraction row, from its flag condition on bytes. -/
theorem subtractsWithFlag_of_aluFlagged {i : Instr} {vx vy : RegIx} {al : Bool} {fl : Byte → Byte → Bool}
    {f : Nat → Nat → Bool} (hi : ∀ s, exec i s = s.aluFlagged al vx vy fl (fun a b => a - b))
    (hf : ∀ a b, fl a b = f a.toNat b.toNat) : Claims.SubtractsWithFlag i vx vy f := by
  intro s hp
  refine ⟨_, (hi s).trans (State.aluFlagged_of_not_refuse hp _ _ _ _ _), ?result, fun hx => ?flag,
    regsKept_writeFlagResult s vx _ _, changesOnly_writeFlagResult s vx _ _⟩
  case result =>
    rw [State.writeFlagResult_getV_self, byte_sub_toNat, apply_ite BitVec.toNat, apply_ite BitVec.toNat,
      flagByte_toNat, hf]
  case flag => rw [State.writeFlagResult_getV_VF s _ _ hx, flagByte_toNat, hf]

/-- A shift row, from its flag and result on bytes. -/
theorem shiftsWithFlag_of_aluFlagged {i : Instr} {vx vy : RegIx} {al : Bool} {fl : Byte → Bool}
    {rs : Byte → Byte} {out res : Nat → Nat}
    (hi : ∀ s, exec i s = s.aluFlagged al vx vy (fun a _ => fl a) (fun a _ => rs a))
    (hout : ∀ a, (flagByte (fl a)).toNat = out a.toNat) (hres : ∀ a, (rs a).toNat = res a.toNat) :
    Claims.ShiftsWithFlag i vx out res := by
  intro s hp
  refine ⟨_, (hi s).trans (State.aluFlagged_of_not_refuse hp _ _ _ _ _), ?result, fun hx => ?flag,
    regsKept_writeFlagResult s vx _ _, changesOnly_writeFlagResult s vx _ _⟩
  case result => rw [State.writeFlagResult_getV_self, hres, apply_ite BitVec.toNat, hout]
  case flag => rw [State.writeFlagResult_getV_VF s _ _ hx, hout]

end Sys2Proof.Machine

namespace Sys2Proof

/-- `8XY5` is the subtraction. -/
theorem decode_8XY5 {op : Word} (hgrp : Claims.grp op = 0x8) (hn : Claims.n op = 5) :
    decode op = some (.subVxVy (Claims.x op) (Claims.y op)) := by
  simp only [decode_group8 hgrp, decodeGroup8, fieldN_of_n hn, fieldX_eq_x, fieldY_eq_y]

end Sys2Proof

namespace Sys2Proof.Machine

/-- Settles O31: the subtraction row whose flag is the strict comparison of `V[x]` with `V[y]`. -/
theorem subtractFlagsStrictlyGreater : Obligations.SubtractFlagsStrictlyGreater :=
  ⟨fun _ => decode_8XY5, fun vx vy => subtractsWithFlag_of_aluFlagged (exec_subVxVy vx vy) fun _ _ => rfl⟩

/-- Settles O32: the subtraction row whose flag compares the other way around. -/
theorem reversedSubtractFlagsSmaller : Obligations.ReversedSubtractFlagsSmaller :=
  fun vx vy => subtractsWithFlag_of_aluFlagged (exec_subnVxVy vx vy) fun _ _ => rfl

theorem flagByte_lowBitOut_toNat (a : Byte) : (flagByte (lowBitOut a)).toNat = a.toNat % 2 := by
  rw [flagByte_toNat, lowBitOut, BitVec.getLsbD, Nat.testBit_zero]
  simp only [decide_eq_true_eq]
  split <;> omega

theorem flagByte_highBitOut_toNat (a : Byte) : (flagByte (highBitOut a)).toNat = a.toNat / 128 := by
  have := a.isLt
  rw [flagByte_toNat, highBitOut, BitVec.getLsbD, Nat.testBit_eq_decide_div_mod_eq]
  simp only [decide_eq_true_eq]
  split <;> omega

/-- Settles O33: the two shift rows, whose flags are the lowest and the highest bit. -/
theorem shiftsByOneInPlace : Obligations.ShiftsByOneInPlace := by
  intro vx vy
  refine ⟨shiftsWithFlag_of_aluFlagged (exec_shrVx vx vy) flagByte_lowBitOut_toNat fun a => ?right,
    shiftsWithFlag_of_aluFlagged (exec_shlVx vx vy) flagByte_highBitOut_toNat fun a => ?left⟩
  case right => rw [BitVec.toNat_ushiftRight, Nat.shiftRight_eq_div_pow]
  case left => rw [BitVec.toNat_shiftLeft, Nat.shiftLeft_eq, Nat.mul_comm]

/-! ### The aliased forms -/

/-- The forms whose outcome depends on `VF_ALIAS_POLICY` (41_alu.md R120). -/
def aliased : Instr → Bool
  | .subVxVy x y | .subnVxVy x y => oneIsVF x y
  | .shrVx x _ | .shlVx x _ => decide (x = VF)
  | _ => false

theorem oneIsVF_iff (x y : RegIx) : oneIsVF x y = true ↔ ¬ (x = VF ↔ y = VF) := by
  by_cases hx : x = VF <;> by_cases hy : y = VF <;> simp [oneIsVF, hx, hy]

theorem aliased_iff (i : Instr) : aliased i = true ↔
    (∃ vx vy, (i = .subVxVy vx vy ∨ i = .subnVxVy vx vy) ∧ ¬ (vx = VF ↔ vy = VF)) ∨
    (∃ vy, i = .shrVx VF vy ∨ i = .shlVx VF vy) := by
  cases i
  case subVxVy | subnVxVy => simp [aliased, oneIsVF_iff]
  all_goals simp [aliased]

theorem State.aluFlagged_of_refuse {s : State} (h : s.cfg.vfAlias = .refuse) (x y : RegIx)
    (fl : Byte → Byte → Bool) (rs : Byte → Byte → Byte) :
    s.aluFlagged true x y fl rs = .refused .vfAliased := by
  simp only [State.aluFlagged, h, if_true]

/-- A form whose result is the same on the operands after the flag write has one outcome under every policy. -/
theorem State.aluFlagged_of_not_aliased (s : State) {x y : RegIx} {fl : Byte → Byte → Bool}
    {rs : Byte → Byte → Byte}
    (hsame : ∀ f a b : Byte, (x = VF → y = VF → a = b) →
      rs (if x = VF then f else a) (if y = VF then f else b) = rs a b) :
    s.aluFlagged false x y fl rs =
      .next (s.writeFlagResult x (flagByte (fl (s.getV x) (s.getV y))) (rs (s.getV x) (s.getV y))) := by
  obtain ⟨r, hr, hold, hseq⟩ | ⟨-, hal, -⟩ := s.aluFlagged_cases false x y fl rs
  · rw [hr]
    by_cases hp : s.cfg.vfAlias = .sequential
    · rw [hseq hp, hsame]
      rintro rfl rfl
      rfl
    · rw [hold hp]
  · cases hal

end Sys2Proof.Machine
end

section
namespace Sys2Proof.Machine

/-! ### The range check (20_memory.md R63, R64) -/

theorem rangeFault_of_beyond {a len : Nat} (hlen : 0 < len) (h : 0x1000 < a + len) :
    rangeFault a len = some (max a 0x1000) := by
  rw [rangeFault, if_pos (by omega)]

/-- Settles O44: the run reaches beyond 0xFFF, and its first address there is the larger of its start and 0x1000. -/
theorem reportedAddressIsLowest : Obligations.ReportedAddressIsLowest := by
  intro a len bad
  constructor
  · intro h
    obtain ⟨rfl, hlen, hbeyond⟩ := rangeFault_some h
    exact ⟨max a 0x1000 - a, by omega, by omega, by omega, fun j hj => by omega⟩
  · rintro ⟨k, hk, rfl, hbeyond, hbefore⟩
    rw [rangeFault_of_beyond (by omega) (by omega)]
    rcases k with _ | k
    · exact congrArg some (by omega)
    · have := hbefore k (Nat.lt_succ_self k)
      exact congrArg some (by omega)

/-! ### The four accesses through `I` (42_index_memory.md R144 to R146, 43_display.md R152) -/

theorem exec_ldBVx_inRange {s : State} (h : s.i.toNat + 2 ≤ 0xFFF) (x : RegIx) :
    exec (.ldBVx x) s = .next (s.setMem (s.mem.writeBytes s.i.toNat (bcdDigits (s.getV x)))) := by
  have hrange : rangeFault (s.ea 0) 3 = none := (rangeFault_none_iff _ _).2 (.inr (Nat.succ_le_succ h))
  simp only [exec, execLdBVx, hrange]
  rfl

theorem exec_ldMemIVx_inRange {s : State} {x : RegIx} (h : s.i.toNat + x.val ≤ 0xFFF) :
    exec (.ldMemIVx x) s = .next (s.setMem (s.mem.writeBytes s.i.toNat (s.regBytes x))) := by
  have hrange : rangeFault (s.ea 0) (x.val + 1) = none :=
    (rangeFault_none_iff _ _).2 (.inr (Nat.succ_le_succ h))
  simp only [exec, execLdMemIVx, hrange]
  rfl

theorem exec_ldVxMemI_inRange {s : State} {x : RegIx} (h : s.i.toNat + x.val ≤ 0xFFF) :
    exec (.ldVxMemI x) s = .next (s.loadRegs x) := by
  have hrange : rangeFault (s.ea 0) (x.val + 1) = none :=
    (rangeFault_none_iff _ _).2 (.inr (Nat.succ_le_succ h))
  simp only [exec, execLdVxMemI, hrange]

theorem exec_ldBVx_outOfRange {s : State} (h : 0xFFF < s.i.toNat + 2) (x : RegIx) :
    exec (.ldBVx x) s = .next (s.execFault (.ldBVx x) .outOfRangeAddress (max s.i.toNat 0x1000)) := by
  have hrange : rangeFault (s.ea 0) 3 = some (max s.i.toNat 0x1000) :=
    rangeFault_of_beyond (by decide) (Nat.succ_lt_succ h)
  simp only [exec, execLdBVx, hrange]

theorem exec_ldMemIVx_outOfRange {s : State} {x : RegIx} (h : 0xFFF < s.i.toNat + x.val) :
    exec (.ldMemIVx x) s = .next (s.execFault (.ldMemIVx x) .outOfRangeAddress (max s.i.toNat 0x1000)) := by
  have hrange : rangeFault (s.ea 0) (x.val + 1) = some (max s.i.toNat 0x1000) :=
    rangeFault_of_beyond (Nat.succ_pos _) (Nat.succ_lt_succ h)
  simp only [exec, execLdMemIVx, hrange]

theorem exec_ldVxMemI_outOfRange {s : State} {x : RegIx} (h : 0xFFF < s.i.toNat + x.val) :
    exec (.ldVxMemI x) s = .next (s.execFault (.ldVxMemI x) .outOfRangeAddress (max s.i.toNat 0x1000)) := by
  have hrange : rangeFault (s.ea 0) (x.val + 1) = some (max s.i.toNat 0x1000) :=
    rangeFault_of_beyond (Nat.succ_pos _) (Nat.succ_lt_succ h)
  simp only [exec, execLdVxMemI, hrange]

theorem exec_drw_outOfRange {s : State} {n : Nat} (hn : 0 < n) (h : 0x1000 < s.i.toNat + n) (x y : RegIx) :
    exec (.drw x y n) s = .next (s.execFault (.drw x y n) .outOfRangeAddress (max s.i.toNat 0x1000)) := by
  have hrange : rangeFault (s.ea 0) n = some (max s.i.toNat 0x1000) := rangeFault_of_beyond hn h
  simp only [exec, execDrw, hrange]

/-- A fault entry at the lowest offending address is what the statements ask for. -/
theorem takesOutOfRange_of_execFault {i : Instr} {s : State}
    (h : exec i s = .next (s.execFault i .outOfRangeAddress (max s.i.toNat 0x1000))) :
    Claims.TakesOutOfRange i s :=
  ⟨_, h, rfl, changesOnly_execFault s _ _ _⟩

/-- Settles O43: each of the four forms checks its whole run before it writes. -/
theorem outOfRangeAccessWritesNothing : Obligations.OutOfRangeAccessWritesNothing := by
  intro s
  refine ⟨fun vx h => ?digits, fun vx h => ?store, fun vx h => ?load, fun vx vy rows hrows h => ?draw⟩
  case digits => exact takesOutOfRange_of_execFault (exec_ldBVx_outOfRange h vx)
  case store => exact takesOutOfRange_of_execFault (exec_ldMemIVx_outOfRange h)
  case load => exact takesOutOfRange_of_execFault (exec_ldVxMemI_outOfRange h)
  case draw => exact takesOutOfRange_of_execFault (exec_drw_outOfRange hrows (by omega) vx vy)

/-- A byte of a run just stored. -/
theorem Memory.read_writeBytes_at (m : Memory) (a : Nat) (bs : List Byte) {k : Nat} (hk : k < bs.length) :
    (m.writeBytes a bs).read (a + k) = bs.getD k 0#8 := by
  rw [Memory.read_writeBytes, if_pos (by omega), Nat.add_sub_cancel_left]

/-- The hundreds, the tens and the units of a byte, each less than 256. -/
theorem bcdDigits_getD_toNat (b : Byte) :
    ((bcdDigits b).getD 0 0#8).toNat = b.toNat / 100 ∧ ((bcdDigits b).getD 1 0#8).toNat = b.toNat / 10 % 10 ∧
      ((bcdDigits b).getD 2 0#8).toNat = b.toNat % 10 := by
  have := b.isLt
  exact ⟨Nat.mod_eq_of_lt (by omega), Nat.mod_eq_of_lt (by omega), Nat.mod_eq_of_lt (by omega)⟩

/-- Settles O39: the three bytes stored are the digits. -/
theorem storesDecimalDigits : Obligations.StoresDecimalDigits := by
  intro vx s h
  obtain ⟨hhundreds, htens, hunits⟩ := bcdDigits_getD_toNat (s.getV vx)
  have hread := fun k (hk : k < 3) => s.mem.read_writeBytes_at s.i.toNat (bcdDigits (s.getV vx)) (k := k) hk
  rw [← hread 0 (by decide), Nat.add_zero] at hhundreds
  rw [← hread 1 (by decide)] at htens
  rw [← hread 2 (by decide)] at hunits
  refine ⟨_, exec_ldBVx_inRange h vx, ?_, ?_, ?_, memKeptOutside_writeBytes s _ (bcdDigits _),
    changesOnly_setMem s _⟩
  all_goals rw [State.setMem_mem]
  all_goals omega

/-- Settles O40: register by register. -/
theorem storesRegisterRange : Obligations.StoresRegisterRange := by
  intro vx s h
  refine ⟨_, exec_ldMemIVx_inRange h, fun k hk => ?stored, ?outside, changesOnly_setMem s _⟩
  case stored =>
    have hlen : k.val < (s.regBytes vx).length := by rw [State.regBytes_length]; exact Nat.lt_succ_of_le hk
    rw [State.setMem_mem, Memory.read_writeBytes_at _ _ _ hlen, s.regBytes_getD vx k hk]
  case outside =>
    rw [← s.regBytes_length vx]
    exact memKeptOutside_writeBytes s _ _

/-- Settles O41: `State.loadRegs_getV`. -/
theorem loadsRegisterRange : Obligations.LoadsRegisterRange := by
  intro vx s h
  exact ⟨_, exec_ldVxMemI_inRange h, s.loadRegs_getV vx, changesOnly_loadRegs s vx⟩

/-- Settles O42: the load reads the bytes that the store wrote, at the same `I`. -/
theorem storeThenLoadRestoresRegisters : Obligations.StoreThenLoadRestoresRegisters := by
  intro vx s h
  obtain ⟨t, ht, hstored, -, hframe⟩ := storesRegisterRange vx s h
  have hi : t.i = s.i := hframe.index_eq
  refine ⟨t, ht, fun u hui hmem => ?_⟩
  obtain ⟨w, hw, hloaded, -⟩ := loadsRegisterRange vx u (by rwa [hui, hi])
  refine ⟨w, hw, fun k hk => ?_⟩
  rw [hloaded, if_pos hk, hui, hi, hmem, hstored k hk]

/-- Settles O45: the two bytes at `PC` are the first two of the run just stored. -/
theorem storeIsSeenByNextFetch : Obligations.StoreIsSeenByNextFetch := by
  intro vx s hpc hx h
  obtain ⟨t, ht, hstored, -, hframe⟩ := storesRegisterRange vx s h
  refine ⟨t, ht, ?_⟩
  have htpc : t.pc = s.i := hframe.pc_eq.trans hpc.symm
  have h0 := hstored 0 (Fin.zero_le vx)
  have h1 := hstored 1 hx
  rw [State.fetch_ok t (by rw [htpc]; omega), htpc]
  exact congrArg Except.ok (congrArg₂ joinBytes h0 h1)

end Sys2Proof.Machine
end

section
namespace Sys2Proof.Machine

/-! ### Draws (43_display.md R152, R153) -/

/-- A pixel goes from set to clear exactly where a set sprite bit meets it. -/
theorem xor_cleared_iff (old bit : Bool) : (old = true ∧ xor old bit = false) ↔ (old = true ∧ bit = true) := by
  cases old <;> cases bit <;> decide

theorem flagByte_toNat_eq_one_iff (c : Bool) : (flagByte c).toNat = 1 ↔ c = true := by
  cases c <;> decide

theorem changesOnly_drawn (s : State) (f : Framebuffer) (b : Byte) :
    ChangesOnly [.regs, .fb] s ((s.setFb f).setV VF b) :=
  ((changesOnly_setFb s f).append (changesOnly_setV _ VF b)).mono (by decide)

/-- Settles O47: pixel by pixel `State.pixel_drawn`, and the flag is `State.drawSprite_collides`. -/
theorem drawXorsSpriteOntoScreen : Obligations.DrawXorsSpriteOntoScreen := by
  intro vx vy rows s hwf hrange
  have hrows : rows < 16 := of_decide_eq_true hwf
  have hpixel := s.pixel_drawn (s.getV vx) (s.getV vy)
    (flagByte (s.drawSprite (s.getV vx) (s.getV vy) rows).2) hrows
  refine ⟨_, exec_drw_inRange (by omega) vx vy, hpixel, ?bound, ?flag, ?kept, changesOnly_drawn s _ _⟩
  case bound =>
    rw [State.getV_setV_self, flagByte_toNat]
    split
    · exact .inl rfl
    · exact .inr rfl
  case flag =>
    rw [State.getV_setV_self, flagByte_toNat_eq_one_iff, State.drawSprite_collides s _ _ rows (by omega)]
    simp only [hpixel, xor_cleared_iff]
  case kept => exact regsKept_setV (s.setFb _) VF _

/-- The sprite is a matter of `I` and `MEM`. -/
theorem State.spriteAt_congr {s t : State} (hi : t.i = s.i) (hmem : Part.Same .mem s t) (vx vy : Byte) (n : Nat) :
    t.spriteAt vx vy n = s.spriteAt vx vy n := by
  funext cx cy
  simp only [State.spriteAt, hi, hmem _]

/-- Settles O49: the second draw XORs the same sprite, since the first leaves `I`, `MEM` and, beside `V[0xF]`, the
registers; where it drew on clear pixels every set bit has set one. -/
theorem drawTwiceCancels : Obligations.DrawTwiceCancels := by
  intro vx vy rows s hwf hvx hvy hrange
  obtain ⟨t, ht, hdrawn, -, -, hregs, hframe⟩ := drawXorsSpriteOntoScreen vx vy rows s hwf hrange
  have hi : t.i = s.i := hframe.index_eq
  refine ⟨t, ht, fun u hui humem hufb huregs => ?_⟩
  have hx : u.getV vx = s.getV vx := (huregs vx).trans (hregs vx (by simpa using hvx))
  have hy : u.getV vy = s.getV vy := (huregs vy).trans (hregs vy (by simpa using hvy))
  have hmem : Part.Same .mem s u := (hframe .mem (by decide)).trans humem
  have hsprite := State.spriteAt_congr (hui.trans hi) hmem (s.getV vx) (s.getV vy) rows
  obtain ⟨w, hw, hredrawn, -, hflag, -⟩ := drawXorsSpriteOntoScreen vx vy rows u hwf (by rwa [hui, hi])
  rw [hx, hy, hsprite] at hredrawn
  have hrestored : Part.Same .fb s w := fun cx cy => by
    rw [hredrawn, hufb, hdrawn, Bool.xor_assoc, Bool.xor_self, Bool.xor_false]
  refine ⟨w, hw, hrestored, fun hclear ⟨cx, cy, hbit⟩ => hflag.2 ⟨cx, cy, ?set, ?cleared⟩⟩
  case set => rw [hufb, hdrawn, hclear cx cy hbit, hbit, Bool.false_xor]
  case cleared => exact (hrestored cx cy).trans (hclear cx cy hbit)

/-! ### Who writes what -/

/-- A part that differs after an instruction is one that the instruction can write. -/
theorem mem_writes_of_not_same {p : Part} {i : Instr} {s t : State} (h : exec i s = .next t)
    (hp : ¬ p.Same s t) : p ∈ writes i :=
  by_contra fun hn => hp (exec_changesOnly h p hn)

/-- The instructions that `writes` lets reach the three memories. -/
theorem memory_writers (i : Instr) :
    (.mem ∈ writes i → ∃ vx, i = .ldBVx vx ∨ i = .ldMemIVx vx) ∧
    (.fb ∈ writes i → i = .cls ∨ ∃ vx vy rows, i = .drw vx vy rows) ∧
    (.stk ∈ writes i → ∃ a, i = .call a) := by
  cases i <;> simp [writes]

/-- The instructions that `writes` lets reach the special registers, `MODE` and `FAULT`. -/
theorem special_writers (i : Instr) :
    (.index ∈ writes i → (∃ a, i = .ldI a) ∨ ∃ vx, i = .addIVx vx ∨ i = .ldFVx vx) ∧
    (.sp ∈ writes i → i = .ret ∨ ∃ a, i = .call a) ∧
    (.dt ∈ writes i → ∃ vx, i = .ldDtVx vx) ∧
    (.st ∈ writes i → ∃ vx, i = .ldStVx vx) ∧
    (.mode ∈ writes i → ∃ vx, i = .ldVxK vx) ∧
    (.fault ∈ writes i → i = .ret ∨ (∃ vx, i = .ldBVx vx ∨ i = .ldMemIVx vx ∨ i = .ldVxMemI vx) ∨
      ∃ vx vy rows, i = .drw vx vy rows) := by
  cases i <;> simp [writes]

/-- Settles O54: what differs was written. -/
theorem memorySpacesHaveTheirWriters : Obligations.MemorySpacesHaveTheirWriters := by
  intro i s t h
  have hwrites : ∀ p : Part, ¬ p.Same s t → p ∈ writes i := fun _ => mem_writes_of_not_same h
  obtain ⟨hmem, hfb, hstk⟩ := memory_writers i
  exact ⟨fun hp => hmem (hwrites .mem hp), fun hp => hfb (hwrites .fb hp), fun hp => hstk (hwrites .stk hp)⟩

/-- Settles O55: what differs was written. -/
theorem specialRegistersHaveTheirWriters : Obligations.SpecialRegistersHaveTheirWriters := by
  intro i s t h
  have hwrites : ∀ p : Part, ¬ p.Same s t → p ∈ writes i := fun _ => mem_writes_of_not_same h
  obtain ⟨hindex, hsp, hdt, hst, hmode, hfault⟩ := special_writers i
  exact ⟨fun hp => hindex (hwrites .index hp), fun hp => hsp (hwrites .sp hp), fun hp => hdt (hwrites .dt hp),
    fun hp => hst (hwrites .st hp), fun hp => hmode (hwrites .mode hp), fun hp => hfault (hwrites .fault hp)⟩

/-- Settles O56: the fault case of `exec_cases`. -/
theorem faultingInstructionChangesNothingElse : Obligations.FaultingInstructionChangesNothingElse := by
  intro i s t h hfault
  obtain ⟨-, -, -, -, -, -, hsame | ⟨k, a, rfl, hk⟩⟩ := exec_cases h
  · exact absurd hsame hfault
  · refine ⟨changesOnly_execFault s i k a, _, rfl, BitVec.sub_add_cancel _ _, rfl, ?_⟩
    exact hk.imp And.left fun ⟨hkind, hret, _⟩ => ⟨hkind, hret⟩

/-- Settles O57: `exec_answers` without the refusal. -/
theorem everyInstructionAnswersNextState : Obligations.EveryInstructionAnswersNextState := by
  intro i s hp
  exact (exec_answers i s).resolve_right fun h => hp h.1

end Sys2Proof.Machine
end

section
namespace Sys2Proof.Machine

/-! ### `VF_ALIAS_POLICY` (41_alu.md R120) -/

/-- The state under another `VF_ALIAS_POLICY`. -/
def State.withPolicy (s : State) (p : VfAliasPolicy) : State := { s with cfg := { s.cfg with vfAlias := p } }

theorem State.skipIf_withPolicy (s : State) (c : Bool) (p : VfAliasPolicy) :
    (s.withPolicy p).skipIf c = (s.skipIf c).withPolicy p := by
  rw [State.skipIf_eq, State.skipIf_eq]
  rfl

theorem State.stkWrite_withPolicy (s : State) (a : Byte) (w : Word) (p : VfAliasPolicy) :
    (s.withPolicy p).stkWrite a w = (s.stkWrite a w).withPolicy p := by
  rw [State.stkWrite_eq, State.stkWrite_eq]
  rfl

theorem State.loadRegs_withPolicy (s : State) (x : RegIx) (p : VfAliasPolicy) :
    (s.withPolicy p).loadRegs x = (s.loadRegs x).withPolicy p :=
  List.foldl_hom (fun t => State.withPolicy t p) fun _ _ => rfl

/-- A flag-writing row of an unaliased form, under every policy. -/
theorem exec_withPolicy_of_aluFlagged {i : Instr} {x y : RegIx} {fl : Byte → Byte → Bool}
    {rs : Byte → Byte → Byte} {al : Bool} (hi : ∀ s, exec i s = s.aluFlagged al x y fl rs) (hal : al = false)
    (hsame : ∀ f a b : Byte, (x = VF → y = VF → a = b) →
      rs (if x = VF then f else a) (if y = VF then f else b) = rs a b) (s : State) :
    ∃ t, exec i s = .next t ∧ ∀ p, exec i (s.withPolicy p) = .next (t.withPolicy p) := by
  subst hal
  exact ⟨_, (hi s).trans (s.aluFlagged_of_not_aliased hsame),
    fun p => (hi _).trans ((s.withPolicy p).aluFlagged_of_not_aliased hsame)⟩

/-- A difference is 0 before and after the flag write where both operands are `V[0xF]`. -/
theorem sub_same_of_not_aliased {x y : RegIx} (h : oneIsVF x y = false) (f a b : Byte)
    (hab : x = VF → y = VF → a = b) :
    (if x = VF then f else a) - (if y = VF then f else b) = a - b := by
  have hiff : x = VF ↔ y = VF := by_contra fun hn => by simp [(oneIsVF_iff x y).2 hn] at h
  by_cases hx : x = VF
  · have hy := hiff.1 hx
    rw [if_pos hx, if_pos hy, hab hx hy, BitVec.sub_self, BitVec.sub_self]
  · rw [if_neg hx, if_neg (mt hiff.2 hx)]

/-- Every form but the aliased ones has one outcome under all policies, the policy itself aside. -/
theorem exec_withPolicy {i : Instr} (h : aliased i = false) (s : State) :
    ∃ t, exec i s = .next t ∧ ∀ p, exec i (s.withPolicy p) = .next (t.withPolicy p) := by
  cases i
  case subVxVy x y => exact exec_withPolicy_of_aluFlagged (exec_subVxVy x y) h (sub_same_of_not_aliased h) s
  case subnVxVy x y => exact exec_withPolicy_of_aluFlagged (exec_subnVxVy x y) h (sub_same_of_not_aliased h) s
  case shrVx x y =>
    have hx : x ≠ VF := of_decide_eq_false h
    exact exec_withPolicy_of_aluFlagged (exec_shrVx x y) h (fun f a b _ => by rw [if_neg hx]) s
  case shlVx x y =>
    have hx : x ≠ VF := of_decide_eq_false h
    exact exec_withPolicy_of_aluFlagged (exec_shlVx x y) h (fun f a b _ => by rw [if_neg hx]) s
  case ret =>
    by_cases hsp : s.sp.toNat < 16
    · exact ⟨_, exec_ret_some hsp, fun p => exec_ret_some (s := s.withPolicy p) hsp⟩
    · exact ⟨_, exec_ret_none (not_lt.1 hsp), fun p => exec_ret_none (s := s.withPolicy p) (not_lt.1 hsp)⟩
  case call a =>
    refine ⟨_, exec_call a s, fun p => (exec_call a _).trans ?_⟩
    exact congrArg (fun t => Host.Outcome.next (State.setPc t (zextNnn a)))
      (State.stkWrite_withPolicy (s.setSp (s.sp + 1#8)) (s.sp + 1#8) s.pc p)
  case seVxKk | sneVxKk | seVxVy | sneVxVy | skp | sknp =>
    exact ⟨_, rfl, fun p => congrArg Host.Outcome.next (State.skipIf_withPolicy s _ p)⟩
  case ldVxK x =>
    cases hkey : s.input.key with
    | none => exact ⟨_, exec_ldVxK_of_no_key hkey x, fun p => exec_ldVxK_of_no_key (s := s.withPolicy p) hkey x⟩
    | some k => exact ⟨_, exec_ldVxK_of_key hkey x, fun p => exec_ldVxK_of_key (s := s.withPolicy p) hkey x⟩
  case drw x y n =>
    by_cases hr : n = 0 ∨ s.i.toNat + n ≤ 0x1000
    · exact ⟨_, exec_drw_inRange hr x y, fun p => exec_drw_inRange (s := s.withPolicy p) hr x y⟩
    · have hn : 0 < n := by omega
      have hbeyond : 0x1000 < s.i.toNat + n := by omega
      exact ⟨_, exec_drw_outOfRange hn hbeyond x y,
        fun p => exec_drw_outOfRange (s := s.withPolicy p) hn hbeyond x y⟩
  case ldBVx x =>
    by_cases hr : s.i.toNat + 2 ≤ 0xFFF
    · exact ⟨_, exec_ldBVx_inRange hr x, fun p => exec_ldBVx_inRange (s := s.withPolicy p) hr x⟩
    · exact ⟨_, exec_ldBVx_outOfRange (not_le.1 hr) x,
        fun p => exec_ldBVx_outOfRange (s := s.withPolicy p) (not_le.1 hr) x⟩
  case ldMemIVx x =>
    by_cases hr : s.i.toNat + x.val ≤ 0xFFF
    · exact ⟨_, exec_ldMemIVx_inRange hr, fun p => exec_ldMemIVx_inRange (s := s.withPolicy p) hr⟩
    · exact ⟨_, exec_ldMemIVx_outOfRange (not_le.1 hr),
        fun p => exec_ldMemIVx_outOfRange (s := s.withPolicy p) (not_le.1 hr)⟩
  case ldVxMemI x =>
    by_cases hr : s.i.toNat + x.val ≤ 0xFFF
    · refine ⟨_, exec_ldVxMemI_inRange hr, fun p => ?_⟩
      rw [exec_ldVxMemI_inRange (s := s.withPolicy p) hr, State.loadRegs_withPolicy]
    · exact ⟨_, exec_ldVxMemI_outOfRange (not_le.1 hr),
        fun p => exec_ldVxMemI_outOfRange (s := s.withPolicy p) (not_le.1 hr)⟩
  all_goals exact ⟨_, rfl, fun p => rfl⟩

/-- An aliased form has no meaning under `refuse`. -/
theorem exec_of_aliased_refuse {i : Instr} {s : State} (h : aliased i = true) (hp : s.cfg.vfAlias = .refuse) :
    exec i s = .refused .vfAliased := by
  cases i
  case subVxVy x y => rw [exec_subVxVy, show oneIsVF x y = true from h, State.aluFlagged_of_refuse hp]
  case subnVxVy x y => rw [exec_subnVxVy, show oneIsVF x y = true from h, State.aluFlagged_of_refuse hp]
  case shrVx x y => rw [exec_shrVx, show decide (x = VF) = true from h, State.aluFlagged_of_refuse hp]
  case shlVx x y => rw [exec_shlVx, show decide (x = VF) = true from h, State.aluFlagged_of_refuse hp]
  all_goals cases h

/-- Settles O34: a form that is not aliased answers a next state under every policy. -/
theorem refusePolicyStopsAliasedFormsOnly : Obligations.RefusePolicyStopsAliasedFormsOnly := by
  intro s i hp
  rw [← aliased_iff]
  refine ⟨fun h => ?_, fun h => exec_of_aliased_refuse h hp⟩
  by_contra hn
  obtain ⟨t, ht, -⟩ := exec_withPolicy (Bool.eq_false_of_not_eq_true hn) s
  rw [ht] at h
  cases h

/-- Settles O35: `exec_withPolicy` from the default policy, which the instruction itself leaves. -/
theorem otherFormsIgnoreAliasPolicy : Obligations.OtherFormsIgnoreAliasPolicy := by
  intro s i p hsub hshift
  have hal : aliased i = false := by
    refine Bool.eq_false_of_not_eq_true fun h => ?_
    obtain ⟨vx, vy, hi, hone⟩ | ⟨vy, hi⟩ := (aliased_iff i).1 h
    · exact hone (hsub vx vy hi)
    · exact hshift VF vy hi rfl
  obtain ⟨t, ht, hpolicy⟩ := exec_withPolicy hal (s.withPolicy .operandsFirst)
  obtain ⟨-, -, hcfg, -⟩ := exec_cases ht
  refine ⟨t, ht, (hpolicy p).trans ?_⟩
  rw [State.withPolicy, hcfg]
  rfl

/-! ### Who writes `V[0xF]` -/

theorem flagByte_eq (c : Bool) : flagByte c = 0#8 ∨ flagByte c = 1#8 := by
  cases c
  · exact .inl rfl
  · exact .inr rfl

/-- After a flag-writing row whose result goes elsewhere `V[0xF]` is a flag. -/
theorem flag_of_aluFlagged {i : Instr} {s t : State} {al : Bool} {x y : RegIx} {fl : Byte → Byte → Bool}
    {rs : Byte → Byte → Byte} (hi : ∀ s, exec i s = s.aluFlagged al x y fl rs) (hx : x ≠ VF)
    (h : exec i s = .next t) : t.getV VF = 0#8 ∨ t.getV VF = 1#8 := by
  rw [hi] at h
  obtain ⟨r, hr, -, -⟩ | ⟨-, -, hr⟩ := s.aluFlagged_cases al x y fl rs
  · rw [hr] at h
    cases h
    rw [State.writeFlagResult_getV_VF s _ _ hx]
    exact flagByte_eq _
  · rw [hr] at h
    cases h

/-- One register write changes `V[0xF]` only where it names it. -/
theorem eq_VF_of_setV_ne {s : State} {x : RegIx} {b : Byte} (h : (s.setV x b).getV VF ≠ s.getV VF) : x = VF :=
  by_contra fun hx => h (s.getV_setV_ne b (Ne.symm hx))

/-- A range of loads changes `V[0xF]` only where it reaches it. -/
theorem eq_VF_of_ldVxMemI_ne {s t : State} {x : RegIx} (h : exec (.ldVxMemI x) s = .next t)
    (hne : t.getV VF ≠ s.getV VF) : x = VF := by
  by_cases hr : s.i.toNat + x.val ≤ 0xFFF
  · rw [exec_ldVxMemI_inRange hr] at h
    cases h
    rw [State.loadRegs_getV, ite_ne_right_iff] at hne
    exact le_antisymm (Fin.le_last x) hne.1
  · rw [exec_ldVxMemI_outOfRange (not_le.1 hr)] at h
    cases h
    exact absurd rfl hne

theorem eq_VF_of_ldVxK_ne {s t : State} {x : RegIx} (h : exec (.ldVxK x) s = .next t)
    (hne : t.getV VF ≠ s.getV VF) : x = VF := by
  cases hkey : s.input.key with
  | none =>
    rw [exec_ldVxK_of_no_key hkey] at h
    cases h
    exact absurd rfl hne
  | some k =>
    rw [exec_ldVxK_of_key hkey] at h
    cases h
    exact eq_VF_of_setV_ne hne

/-- Settles O53: an instruction that writes registers is a flag writer or writes one named destination, or a range
that ends at `V[0xF]`; and a flag stands where the result goes elsewhere. -/
theorem flagRegisterHasSixFlagWriters : Obligations.FlagRegisterHasSixFlagWriters := by
  intro i s t h
  refine ⟨fun hne => ?writer, fun vx vy hx hi => ?flag⟩
  case writer =>
    have hregs : .regs ∈ writes i := mem_writes_of_not_same h fun hsame => hne (hsame VF)
    cases i
    case addVxVy | subVxVy | shrVx | subnVxVy | shlVx | drw => simp
    case ldVxKk | addVxKk | ldVxVy | orVxVy | andVxVy | xorVxVy | rnd | ldVxDt =>
      cases h
      simp [eq_VF_of_setV_ne hne]
    case ldVxK x => simp [eq_VF_of_ldVxK_ne h hne]
    case ldVxMemI x => simp [eq_VF_of_ldVxMemI_ne h hne]
    all_goals simp [writes] at hregs
  case flag =>
    obtain rfl | rfl | rfl | rfl | rfl := hi
    · cases h
      rw [State.writeFlagResult_getV_VF s _ _ hx]
      exact flagByte_eq _
    · exact flag_of_aluFlagged (exec_subVxVy vx vy) hx h
    · exact flag_of_aluFlagged (exec_shrVx vx vy) hx h
    · exact flag_of_aluFlagged (exec_subnVxVy vx vy) hx h
    · exact flag_of_aluFlagged (exec_shlVx vx vy) hx h

end Sys2Proof.Machine
end

section
namespace Sys2Proof.Machine

/-! ### Power-on (70_reset_and_hazards.md R200, 20_memory.md R65) -/

theorem PowerOn.initBytes_length (p : PowerOn) : p.initBytes.length = 4016 := by
  rw [PowerOn.initBytes, List.length_map, List.length_range]

theorem PowerOn.initBytes_getD (p : PowerOn) {k : Nat} (h : k < 4016) :
    p.initBytes.getD k 0#8 = p.memInit (0x050 + k) := by
  simp [PowerOn.initBytes, List.getD_eq_getElem?_getD, h]

/-- The glyphs lie over nothing and under no ROM. -/
theorem PowerOn.memory_read_glyph (p : PowerOn) (k : Fin 80) : p.memory.read k.val = p.glyphBytes[k] := by
  have hk := k.isLt
  rw [PowerOn.memory, Memory.read_writeBytes, if_neg (by omega), Memory.read_writeBytes,
    if_pos ⟨Nat.zero_le _, by simp⟩]
  simp [List.getD_eq_getElem?_getD]

/-- The initial contents stand from 0x050 to 0xFFF, where the ROM does not. -/
theorem PowerOn.memory_read_init (p : PowerOn) {a : Nat} (hlo : 0x050 ≤ a) (hhi : a ≤ 0xFFF)
    (hrom : ¬ (0x200 ≤ a ∧ a < 0x200 + p.rom.length)) : p.memory.read a = p.memInit a := by
  have hglyph : ¬ (0 ≤ a ∧ a < 0 + p.glyphBytes.toList.length) := by
    rw [Vector.length_toList]; omega
  rw [PowerOn.memory, Memory.read_writeBytes, if_neg hrom, Memory.read_writeBytes, if_neg hglyph,
    Memory.read_writeBytes, if_pos (by rw [PowerOn.initBytes_length]; omega), p.initBytes_getD (by omega),
    Nat.add_sub_cancel' hlo]

theorem PowerOn.memory_read_rom (p : PowerOn) {k : Nat} (h : k < p.rom.length) :
    p.memory.read (0x200 + k) = p.rom[k] := by
  rw [PowerOn.memory, Memory.read_writeBytes_at _ _ _ h, List.getD_eq_getElem _ _ h]

/-- The three runs of stores of power-on stay inside `MEM`. -/
theorem PowerOn.memory_wf (p : PowerOn) (h : p.rom.length ≤ 3584) : p.memory.wf = true := by
  have hinit : (Memory.writeBytes [] 0x050 p.initBytes).wf = true :=
    Memory.wf_writeBytes _ _ _ rfl (by rw [p.initBytes_length])
  have hglyphs := Memory.wf_writeBytes p.glyphBytes.toList _ 0x000 hinit (by rw [Vector.length_toList]; decide)
  exact Memory.wf_writeBytes _ _ _ hglyphs (by show _ ≤ 4096; omega)

theorem powerOn_of_fits {p : PowerOn} (h : p.rom.length ≤ 3584) :
    powerOn p = .next { State.reset with
      mem := p.memory, stk := p.stkInit, fb := p.fbInit, cfg := p.cfg, inputs := p.inputs } := by
  rw [powerOn, if_neg (not_lt.2 h)]

theorem State.reset_getV (k : RegIx) : State.reset.getV k = 0#8 := by
  simp [State.reset, State.getV]

/-- Settles O59: `MEM` by its three runs of stores, everything else as `State.reset` or the parameters have it. -/
theorem powerOnLaysOutMemory : Obligations.PowerOnLaysOutMemory := by
  intro p
  refine ⟨fun h => if_pos h, fun h => ⟨_, powerOn_of_fits h, p.memory_read_glyph,
    fun a hlo hhi => p.memory_read_init hlo (by omega) (by omega), fun k hk => p.memory_read_rom hk,
    fun a hlo hhi => p.memory_read_init (by omega) hhi (by omega), p.memory_wf h, rfl, rfl, rfl,
    State.reset_getV, rfl, rfl, rfl, rfl, rfl, rfl, rfl, rfl⟩⟩

/-- Beyond the 80 glyph bytes an unlisted address reads as 0. -/
theorem Memory.unlisted_of_ge {a : Nat} (h : 0x050 ≤ a) : Memory.unlisted a = 0#8 :=
  List.getD_eq_default _ _ h

/-- The default contents are what an unlisted address reads as, so nothing is listed. -/
theorem memory_withRom_nil : (PowerOn.withRom []).memory = [] := by
  have hinit : Memory.writeBytes [] 0x050 (PowerOn.withRom []).initBytes = [] := by
    refine Memory.writeBytes_unlisted _ _ fun k hk => ?_
    rw [PowerOn.initBytes_length] at hk
    rw [PowerOn.initBytes_getD _ hk, Memory.unlisted_of_ge (Nat.le_add_right _ _)]
    rfl
  have hglyphs : Memory.writeBytes [] 0x000 (PowerOn.withRom []).glyphBytes.toList = [] := by
    refine Memory.writeBytes_unlisted _ _ fun k hk => ?_
    rw [Vector.length_toList] at hk
    rw [Nat.zero_add, List.getD_eq_getElem _ _ (by rwa [Vector.length_toList])]
    simp [PowerOn.withRom, Memory.unlisted]
  rw [PowerOn.memory, hinit, hglyphs]
  rfl

/-- Settles O60: no ROM fits, and the default memory lists nothing. -/
theorem resetIsPowerOnWithDefaults : Obligations.ResetIsPowerOnWithDefaults := by
  have hfits : (PowerOn.withRom []).rom.length ≤ 3584 := Nat.zero_le _
  unfold Obligations.ResetIsPowerOnWithDefaults
  rw [powerOn_of_fits hfits, memory_withRom_nil]
  rfl

end Sys2Proof.Machine
end
